-- ==== Sys2Proof/Word.lean ====
section
/-! DEFINITION. The word types of 00_scope.md R8: every integer of the block is unsigned, bit 0 the least significant. -/

namespace Sys2Proof

/-- `u8`, a byte (R8). -/
abbrev Byte := BitVec 8
/-- `u16`. -/
abbrev Half := BitVec 16
/-- `u32`. -/
abbrev Word := BitVec 32
/-- `u64`. -/
abbrev DWord := BitVec 64
/-- The 24-bit address that travels on the bus (20_memory.md R51). -/
abbrev BusAddr := BitVec 24

end Sys2Proof
end

