-- ==== Sys2Proof/Config.lean ====
section
/-! DEFINITION. The parameters of 00_scope.md R7, and the values the spec leaves open as constants without a body
(10_state.md R31 to R39, 70_reset_and_hazards.md R261, 92_eei_decisions.md D20): nothing can be proved of their value. -/

namespace Sys2Proof.Config

/-! ## Values the spec fixes (R7) -/

/-- `DEVICE_CAPACITY`, bytes of the data array (R7, R38). -/
def deviceCapacity : Nat := 0x80000
/-- `PAYLOAD_SIZE` (R7). -/
def payloadSize : Nat := 20
/-- `HEADER_SIZE` (R7). -/
def headerSize : Nat := 24
/-- `SLOT_A_HDR` (R7, R52). -/
def slotAHdr : Nat := 0
/-- `SLOT_A_PAY` (R7, R52). -/
def slotAPay : Nat := 24
/-- `SLOT_B_HDR` (R7, R52). -/
def slotBHdr : Nat := 256
/-- `SLOT_B_PAY` (R7, R52). -/
def slotBPay : Nat := 280
/-- `SLOT_STRIDE` (R7, R52). -/
def slotStride : Nat := 256
/-- `MAGIC`, the bytes "BURE" read little-endian (R7, R59). -/
def magic : Word := 0x45525542#32
/-- `VERSION` of the on-media format (R2, R7). -/
def version : Half := 1#16
/-- `CRC_POLY_REFLECTED` (R7, R170). -/
def crcPoly : Word := 0xEDB88320#32
/-- `CRC_INIT` (R7, R170). -/
def crcInit : Word := 0xFFFFFFFF#32
/-- `CRC_XOROUT` (R7, R172). -/
def crcXorOut : Word := 0xFFFFFFFF#32
/-- `T_SLEEP_US`: the wait after SLEEP is at least this (R7, R120). -/
def tSleepUs : Nat := 3
/-- `T_WAKE_US`: the wait after WAKE is at least this (R7, R121). -/
def tWakeUs : Nat := 400
/-- `COUNT_WIDTH`, the width of the `prog_qty` register (R7, R156; decision D6). -/
def countWidth : Nat := 64

/-! ## Values the spec leaves open -/

/-- `WEL_AUTO_CLEAR` (R7, OPEN; R33): does the device of reset clear WEL after WRITE and WRSR.
DESIGN CHOICE, safe: a bodyless constant (log 5). -/
opaque welAutoClear : Bool
/-- `SR_WRITABLE_MASK` (R7, OPEN; D20): the status bits WRSR changes in the device of reset.
DESIGN CHOICE, safe: a bodyless constant (log 5). -/
opaque srWritableMask : Byte
/-- Does the bus capability of reset have the WP line (R21). DESIGN CHOICE, safe: a bodyless constant (log 5). -/
opaque wpWired : Bool
/-- Is there a device on the far side of the bus of reset (R115, R247). DESIGN CHOICE, safe: a bodyless constant
(log 35). -/
opaque devicePresent : Bool
/-- The status register at power-up, any value (R31, R33, R261). DESIGN CHOICE, safe: a bodyless constant (log 1). -/
opaque powerUpSr : Byte
/-- Whether the device sleeps at power-up, any value (R39, R261). DESIGN CHOICE, safe: a bodyless constant (log 2). -/
opaque powerUpAsleep : Bool
/-- What byte `a` of the data array holds before anything has written it, any value (R38, R261).
DESIGN CHOICE, safe: a bodyless constant (log 3). -/
opaque powerUpArray : Nat → Byte
/-- The oracle: the n-th byte that the spec calls "any value" (R128, D19; R276, D20(i); R63, D21).
DESIGN CHOICE, safe: a bodyless constant (log 7). -/
opaque oracleByte : Nat → Byte

end Sys2Proof.Config
end

