-- ==== Sys2Proof/Machine/Operands.lean ====
section
/-! DEFINITION. Byte lists and byte order: the helpers `le_N`, `from_le`, `be3`, `zeros` and list slices of 00_scope.md
R8 and R9, and the range check of 40_driver.md R110. -/

namespace Sys2Proof.Machine

/-- `zeros(n)`: n bytes 0x00 (R8). -/
def zeros (n : Nat) : List Byte := List.replicate n 0#8

/-- `l[i..j)`: from offset i up to but not including j (R8). -/
def slice (l : List Byte) (i j : Nat) : List Byte := (l.drop i).take (j - i)

/-- The n low bytes of `v`, least significant first (R9). -/
def leBytes : Nat → Nat → List Byte
  | 0, _ => []
  | n + 1, v => BitVec.ofNat 8 v :: leBytes n (v / 256)

/-- `le_2(v)` (R9). -/
def le2 (v : Half) : List Byte := leBytes 2 v.toNat
/-- `le_4(v)` (R9). -/
def le4 (v : Word) : List Byte := leBytes 4 v.toNat
/-- `le_8(v)` (R9). -/
def le8 (v : DWord) : List Byte := leBytes 8 v.toNat

/-- `from_le(l)`: the sum over i of l[i] * 2^(8i) (R9). -/
def fromLe : List Byte → Nat
  | [] => 0
  | b :: bs => b.toNat + 256 * fromLe bs

/-- `be3(a)`: `[a[23:16], a[15:8], a[7:0]]` (R9, 30_encoding.md R84). -/
def be3 (a : BusAddr) : List Byte :=
  [a.extractLsb' 16 8, a.extractLsb' 8 8, a.extractLsb' 0 8]

/-- The address that three bytes, most significant first, spell (R84). -/
def fromBe3 (hi mid lo : Byte) : BusAddr := hi ++ mid ++ lo

/-- `RangeOK(addr, n)`: the exact sum, which never wraps, is at most the capacity (R110, decision D7). -/
def rangeOk (addr : Word) (n : Nat) : Bool := decide (addr.toNat + n ≤ Config.deviceCapacity)

/-- The bus address of a host address that passed the range check: its bits 31:24 are 0 (R84). -/
def busAddr (addr : Word) : BusAddr := addr.setWidth 24

/-- `level = cfg[1:0]`, which is the value SR[3:2] takes (30_encoding.md R93; 40_driver.md R122). -/
def cfgLevel (cfg : Byte) : BitVec 2 := cfg.extractLsb' 0 2

/-- `hw_lock = cfg[2]` (R93). -/
def cfgHwLock (cfg : Byte) : Bool := cfg.getLsbD 2

end Sys2Proof.Machine
end

