-- ==== Sys2Proof/Syntax.lean ====
section
/-! DEFINITION. The instructions of the block: the eight serial command frames it sends (30_encoding.md R82, R83) and
the sixteen host operations (R91), their encodings' types, and the record they carry (R94). -/

namespace Sys2Proof

/-- The one persisted record (41_codec.md R150; 30_encoding.md R94). `salaryBits` is a binary32 bit pattern that the
block never computes on (R151). -/
structure Bureau where
  progQty : DWord
  mathQty : Word
  headQty : Byte
  salaryBits : Word
deriving DecidableEq, Repr

/-- A serial command frame, what one chip-select bracket holds (30_encoding.md R81 to R83). -/
inductive Frame where
  /-- WRSR 0x01, format `CW`. -/
  | wrsr (v : Byte)
  /-- WRITE 0x02, format `CAW`. -/
  | write (addr : BusAddr) (data : List Byte)
  /-- READ 0x03, format `CAR`; `n` bytes are captured. -/
  | read (addr : BusAddr) (n : Nat)
  /-- WRDI 0x04, format `C`. -/
  | wrdi
  /-- RDSR 0x05, format `CR`. -/
  | rdsr
  /-- WREN 0x06, format `C`. -/
  | wren
  /-- WAKE 0xAB, format `C`. -/
  | wake
  /-- SLEEP 0xB9, format `C`. -/
  | sleep
deriving DecidableEq, Repr

/-- The instructions of the block (00_scope.md R6: its only "instructions" are the host operations of R91 and the
eight serial command opcodes it emits), one constructor per row of opcode_table.json. -/
inductive Instr where
  -- serial command frames (R82)
  | wrsr (v : Byte)
  | write (addr : BusAddr) (data : List Byte)
  | read (addr : BusAddr) (n : Nat)
  | wrdi
  | rdsr
  | wren
  | wake
  | sleep
  -- host requests (R91)
  | drvRead (addr n : Word)
  | drvWrite (addr : Word) (data : List Byte)
  | drvRdsr
  | drvWrsr (v : Byte)
  | drvWren
  | drvWrdi
  | drvSleep
  | drvWake
  | drvSetBp (cfg : Byte)
  | crc32 (data : List Byte)
  | recEncode (r : Bureau)
  | recDecode (b : List Byte)
  | hdrValidate (h : List Byte)
  | hdrEncode (crc : Word) (seqno : DWord)
  | storeWrite (r : Bureau)
  | storeRead
deriving DecidableEq, Repr

/-- The operands of a host request: typed values, not packed bit fields (30_encoding.md R90). -/
inductive Operands where
  | none
  | addrLen (addr n : Word)
  | addrData (addr : Word) (data : List Byte)
  | byte (v : Byte)
  | bytes (l : List Byte)
  | bureau (r : Bureau)
  | crcSeq (crc : Word) (seqno : DWord)
deriving DecidableEq, Repr

/-- A host request: an operation code and its operands (R90). -/
structure Request where
  op : Byte
  operands : Operands
deriving DecidableEq, Repr

/-- An encoded instruction, at one of the two levels of 30_encoding.md R80. -/
inductive Code where
  /-- What a host sends to the block. -/
  | request (r : Request)
  /-- What the block clocks out to the peer device in one bracket. -/
  | frame (bytes : List Byte)
deriving DecidableEq, Repr

/-- The instruction that a serial frame is. -/
def Frame.instr : Frame → Instr
  | .wrsr v => .wrsr v
  | .write addr data => .write addr data
  | .read addr n => .read addr n
  | .wrdi => .wrdi
  | .rdsr => .rdsr
  | .wren => .wren
  | .wake => .wake
  | .sleep => .sleep

end Sys2Proof
end

