-- ==== Sys2Proof/WellFormed.lean ====
section
/-! DEFINITION. Which instructions are well formed: the operand checks of 30_encoding.md R93 and R95 for host requests,
and the address bound of R84 (20_memory.md R51) for the serial frames the block can send. -/

namespace Sys2Proof

/-- A frame the block can send: READ and WRITE carry an address that passed the range check (R51, R84). -/
def Frame.wellFormed : Frame → Bool
  | .write addr data => decide (addr.toNat + data.length ≤ Config.deviceCapacity)
  | .read addr n => decide (addr.toNat + n ≤ Config.deviceCapacity)
  | .wrsr _ | .wrdi | .rdsr | .wren | .wake | .sleep => true

/-- The reserved bits 7:3 of DRV_SET_BP's operand are 0 (R93). -/
def cfgReservedZero (cfg : Byte) : Bool := cfg &&& 0xF8#8 == 0#8

/-- A byte-list operand's length fits a u32 (R95: "any length up to 2^32 - 1"). -/
def lengthFits (l : List Byte) : Bool := decide (l.length < 2 ^ 32)

/-- The instruction passes the checks made before anything else (R93, R95), or is a frame the block can send. -/
def Instr.wellFormed : Instr → Bool
  | .wrsr v => Frame.wellFormed (.wrsr v)
  | .write addr data => Frame.wellFormed (.write addr data)
  | .read addr n => Frame.wellFormed (.read addr n)
  | .wrdi => Frame.wellFormed .wrdi
  | .rdsr => Frame.wellFormed .rdsr
  | .wren => Frame.wellFormed .wren
  | .wake => Frame.wellFormed .wake
  | .sleep => Frame.wellFormed .sleep
  | .drvRead _ _ => true
  | .drvWrite _ data => lengthFits data
  | .drvRdsr => true
  | .drvWrsr _ => true
  | .drvWren => true
  | .drvWrdi => true
  | .drvSleep => true
  | .drvWake => true
  | .drvSetBp cfg => cfgReservedZero cfg
  | .crc32 data => lengthFits data
  | .recEncode _ => true
  | .recDecode b => b.length == Config.payloadSize
  | .hdrValidate h => h.length == Config.headerSize
  | .hdrEncode _ _ => true
  | .storeWrite _ => true
  | .storeRead => true

end Sys2Proof
end

