-- ==== Sys2Proof/Decode.lean ====
section
/-! DEFINITION. Decoding at the two levels of 30_encoding.md R80, total and rejecting by name, and the encoder:
host requests (R90 to R95) and serial command frames (R81 to R87). -/

namespace Sys2Proof

open Sys2Proof.Machine

/-- Why a code is no instruction of the block. -/
inductive DecodeError where
  /-- The operation code is none of the sixteen (R92). -/
  | unassignedOp (op : Byte)
  /-- DRV_SET_BP with `cfg[7:3]` not 0 (R93). -/
  | reservedCfg (cfg : Byte)
  /-- An operand of the wrong shape (R95). -/
  | wrongShape (op : Byte)
  /-- Bytes that are no frame of R82 and R83: "not sent by this block" (R87). -/
  | notSentByBlock (bytes : List Byte)
deriving DecidableEq, Repr

/-! ## The opcode bytes -/

/-- The sixteen host operations (R91). -/
inductive HostOp where
  | drvRead | drvWrite | drvRdsr | drvWrsr | drvWren | drvWrdi | drvSleep | drvWake | drvSetBp
  | crc32 | recEncode | recDecode | hdrValidate | hdrEncode | storeWrite | storeRead
deriving DecidableEq, Repr

/-- The operation code of a host operation (R91). -/
def HostOp.code : HostOp → Byte
  | .drvRead => 0x01#8
  | .drvWrite => 0x02#8
  | .drvRdsr => 0x03#8
  | .drvWrsr => 0x04#8
  | .drvWren => 0x05#8
  | .drvWrdi => 0x06#8
  | .drvSleep => 0x07#8
  | .drvWake => 0x08#8
  | .drvSetBp => 0x09#8
  | .crc32 => 0x10#8
  | .recEncode => 0x11#8
  | .recDecode => 0x12#8
  | .hdrValidate => 0x13#8
  | .hdrEncode => 0x14#8
  | .storeWrite => 0x20#8
  | .storeRead => 0x21#8

/-- The rows of R91. -/
def hostOps : List HostOp :=
  [.drvRead, .drvWrite, .drvRdsr, .drvWrsr, .drvWren, .drvWrdi, .drvSleep, .drvWake, .drvSetBp,
   .crc32, .recEncode, .recDecode, .hdrValidate, .hdrEncode, .storeWrite, .storeRead]

/-- The host operation of a code, matched as a whole byte (R92). -/
def hostOpOf (op : Byte) : Option HostOp := hostOps.find? (fun h => h.code == op)

/-- The eight command opcodes (R82). -/
inductive FrameOp where
  | wrsr | write | read | wrdi | rdsr | wren | wake | sleep
deriving DecidableEq, Repr

/-- The opcode byte of a serial command (R82). -/
def FrameOp.code : FrameOp → Byte
  | .wrsr => 0x01#8
  | .write => 0x02#8
  | .read => 0x03#8
  | .wrdi => 0x04#8
  | .rdsr => 0x05#8
  | .wren => 0x06#8
  | .wake => 0xAB#8
  | .sleep => 0xB9#8

/-- The rows of R82. -/
def frameOps : List FrameOp := [.wrsr, .write, .read, .wrdi, .rdsr, .wren, .wake, .sleep]

/-- The serial command of an opcode byte, if the block ever sends that byte (R82, R87). -/
def frameOpOf (b : Byte) : Option FrameOp := frameOps.find? (fun f => f.code == b)

/-! ## Host requests -/

/-- The instruction of a host operation with its operands, whose shape is checked (R91, R93, R95). -/
def decodeOperands (op : HostOp) (operands : Operands) : Except DecodeError Instr :=
  match op, operands with
  | .drvRead, .addrLen addr n => .ok (.drvRead addr n)
  | .drvWrite, .addrData addr data =>
    if lengthFits data then .ok (.drvWrite addr data) else .error (.wrongShape op.code)
  | .drvRdsr, .none => .ok .drvRdsr
  | .drvWrsr, .byte v => .ok (.drvWrsr v)
  | .drvWren, .none => .ok .drvWren
  | .drvWrdi, .none => .ok .drvWrdi
  | .drvSleep, .none => .ok .drvSleep
  | .drvWake, .none => .ok .drvWake
  | .drvSetBp, .byte cfg =>
    if cfgReservedZero cfg then .ok (.drvSetBp cfg) else .error (.reservedCfg cfg)
  | .crc32, .bytes data => if lengthFits data then .ok (.crc32 data) else .error (.wrongShape op.code)
  | .recEncode, .bureau b => .ok (.recEncode b)
  | .recDecode, .bytes b =>
    if b.length == Config.payloadSize then .ok (.recDecode b) else .error (.wrongShape op.code)
  | .hdrValidate, .bytes h =>
    if h.length == Config.headerSize then .ok (.hdrValidate h) else .error (.wrongShape op.code)
  | .hdrEncode, .crcSeq crc seqno => .ok (.hdrEncode crc seqno)
  | .storeWrite, .bureau b => .ok (.storeWrite b)
  | .storeRead, .none => .ok .storeRead
  | _, _ => .error (.wrongShape op.code)

/-- Decode a host request: the operation code first, then the operand's shape (R92, R93, R95; the order of
60_exceptions.md R240). -/
def decodeRequest (r : Request) : Except DecodeError Instr :=
  match hostOpOf r.op with
  | none => .error (.unassignedOp r.op)
  | some op => decodeOperands op r.operands

/-! ## Serial frames -/

/-- The bytes the block clocks out for a frame (R83): the address big-endian, zeros for the captured bytes of READ and
for the status byte of RDSR (decision D8). -/
def Frame.bytes : Frame → List Byte
  | .wrsr v => [FrameOp.wrsr.code, v]
  | .write addr data => FrameOp.write.code :: (be3 addr ++ data)
  | .read addr n => FrameOp.read.code :: (be3 addr ++ zeros n)
  | .wrdi => [FrameOp.wrdi.code]
  | .rdsr => [FrameOp.rdsr.code, 0#8]
  | .wren => [FrameOp.wren.code]
  | .wake => [FrameOp.wake.code]
  | .sleep => [FrameOp.sleep.code]

/-- The frame that bytes after opcode `op` spell, if they have the opcode's one format (R83). -/
def frameOfParts (op : FrameOp) (rest : List Byte) : Option Frame :=
  match op, rest with
  | .wrsr, [v] => some (.wrsr v)
  | .write, hi :: mid :: lo :: data => some (.write (fromBe3 hi mid lo) data)
  | .read, hi :: mid :: lo :: data =>
    if data.all (· == 0#8) then some (.read (fromBe3 hi mid lo) data.length) else none
  | .wrdi, [] => some .wrdi
  | .rdsr, [z] => if z == 0#8 then some .rdsr else none
  | .wren, [] => some .wren
  | .wake, [] => some .wake
  | .sleep, [] => some .sleep
  | _, _ => none

/-- A decoder of bus traces (R86, R87): the frame that the bytes of one bracket are, refused when the block cannot
send them. -/
def decodeFrame (bytes : List Byte) : Except DecodeError Frame :=
  match bytes with
  | [] => .error (.notSentByBlock [])
  | b :: rest =>
    match (frameOpOf b).bind (fun op => frameOfParts op rest) with
    | some f => if f.wellFormed then .ok f else .error (.notSentByBlock bytes)
    | none => .error (.notSentByBlock bytes)

/-! ## Both levels -/

/-- Decode a code of either level (R80). -/
def decode : Code → Except DecodeError Instr
  | .request r => decodeRequest r
  | .frame bytes => (decodeFrame bytes).map Frame.instr

/-- A request for a host operation. -/
def requestOf (op : HostOp) (operands : Operands) : Code := .request { op := op.code, operands := operands }

/-- Encode an instruction: a serial frame's bytes (R83), or a host request (R91). -/
def encode : Instr → Code
  | .wrsr v => .frame (Frame.bytes (.wrsr v))
  | .write addr data => .frame (Frame.bytes (.write addr data))
  | .read addr n => .frame (Frame.bytes (.read addr n))
  | .wrdi => .frame (Frame.bytes .wrdi)
  | .rdsr => .frame (Frame.bytes .rdsr)
  | .wren => .frame (Frame.bytes .wren)
  | .wake => .frame (Frame.bytes .wake)
  | .sleep => .frame (Frame.bytes .sleep)
  | .drvRead addr n => requestOf .drvRead (.addrLen addr n)
  | .drvWrite addr data => requestOf .drvWrite (.addrData addr data)
  | .drvRdsr => requestOf .drvRdsr .none
  | .drvWrsr v => requestOf .drvWrsr (.byte v)
  | .drvWren => requestOf .drvWren .none
  | .drvWrdi => requestOf .drvWrdi .none
  | .drvSleep => requestOf .drvSleep .none
  | .drvWake => requestOf .drvWake .none
  | .drvSetBp cfg => requestOf .drvSetBp (.byte cfg)
  | .crc32 data => requestOf .crc32 (.bytes data)
  | .recEncode r => requestOf .recEncode (.bureau r)
  | .recDecode b => requestOf .recDecode (.bytes b)
  | .hdrValidate h => requestOf .hdrValidate (.bytes h)
  | .hdrEncode crc seqno => requestOf .hdrEncode (.crcSeq crc seqno)
  | .storeWrite r => requestOf .storeWrite (.bureau r)
  | .storeRead => requestOf .storeRead .none

/-! ## Rows of the opcode table -/

/-- The operands of a host operation with every value zero and every list as short as its shape allows (R91, R95). -/
def HostOp.zeroOperands : HostOp → Operands
  | .drvRead => .addrLen 0#32 0#32
  | .drvWrite => .addrData 0#32 []
  | .drvWrsr | .drvSetBp => .byte 0#8
  | .crc32 => .bytes []
  | .recDecode => .bytes (zeros Config.payloadSize)
  | .hdrValidate => .bytes (zeros Config.headerSize)
  | .recEncode | .storeWrite => .bureau ⟨0#64, 0#32, 0#8, 0#32⟩
  | .hdrEncode => .crcSeq 0#32 0#64
  | .drvRdsr | .drvWren | .drvWrdi | .drvSleep | .drvWake | .storeRead => .none

/-- The bytes after a command opcode with every operand zero and no data (R83). -/
def FrameOp.zeroTail : FrameOp → List Byte
  | .wrsr | .rdsr => zeros 1
  | .write | .read => zeros 3
  | .wrdi | .wren | .wake | .sleep => []

/-- The code of an opcode byte with its operands zero. A byte that is an operation code of R91 is a host request; any
other of R82's bytes is a frame (the six bytes both levels use are host requests here: log 13). -/
def tableCode (w : Nat) : Code :=
  let op : Byte := BitVec.ofNat 8 w
  match hostOpOf op with
  | some h => .request { op := op, operands := h.zeroOperands }
  | none =>
    match frameOpOf op with
    | some f => .frame (op :: f.zeroTail)
    | none => .request { op := op, operands := .none }

/-- The instruction the decoder reads from a row's bits (every row of opcode_table.json has eight). -/
def decodeTableWord (nbits w : Nat) : Option Instr :=
  if nbits = 8 then (decode (tableCode w)).toOption else none

end Sys2Proof
end

