-- ==== Sys2Proof/Machine/State.lean ====
section
/-! DEFINITION. The state of the machine as plain data: the block's own state and the peer device's (10_state.md), what
the environment holds ready, why a step can stop, and the state right after reset (70_reset_and_hazards.md R260, R261). -/

namespace Sys2Proof.Machine

/-! ## Values that registers and responses hold -/

/-- One of the two slots of the store (00_scope.md R14; 20_memory.md R52). -/
inductive Slot where
  | A
  | B
deriving DecidableEq, Repr

/-- The fields of a 24-byte RecordHeader (20_memory.md R58; 43_store.md R185). -/
structure Header where
  magic : Word
  version : Half
  reserved : Half
  length : Word
  crc32 : Word
  seqno : DWord
deriving DecidableEq, Repr

/-- The result kinds (60_exceptions.md R231). -/
inductive ResultCode where
  | ok
  | range
  | format
  | integrity
  | notFound
  | overflow
  | illegalOp
deriving DecidableEq, Repr

/-- The data of a response, typed per operation (30_encoding.md R91); empty for every code but OK (R29). -/
inductive RespData where
  | empty
  | bytes (l : List Byte)
  | status (sr : Byte)
  | crc (c : Word)
  | bureau (r : Bureau)
  /-- HDR_VALIDATE: `valid` is 0 or 1, the header fields follow when valid (R188). -/
  | validity (valid : Byte) (fields : Option Header)
  | seqno (n : DWord)
  /-- STORE_READ: the record and the picked slot's sequence number (R208). -/
  | record (r : Bureau) (seqno : DWord)
deriving DecidableEq, Repr

/-- What the block answers a host: `result : u8` and `data` (10_state.md R29). -/
structure Response where
  result : Byte
  data : RespData
deriving DecidableEq, Repr

/-! ## The block's own state -/

/-- The operation sequencer (10_state.md R28): idle, or performing `op` with `k` bus actions done. -/
inductive Seq where
  | idle
  | busy (op : Instr) (k : Nat)
deriving DecidableEq, Repr

/-- The names of the working registers (10_state.md R26). -/
inductive WorkReg where
  | crc | pay | hbufA | hbufB | ha | hb | nextSeq | target | pick | srTmp | rx
deriving DecidableEq, Repr

/-- The working registers (10_state.md R26). `none` is the spec's own "no value" (R26, R260; log 9). -/
structure WorkRegs where
  crc : Option Word
  pay : Option (List Byte)
  hbufA : Option (List Byte)
  hbufB : Option (List Byte)
  ha : Option (Option Header)
  hb : Option (Option Header)
  nextSeq : Option DWord
  target : Option Slot
  pick : Option Slot
  srTmp : Option Byte
  rx : Option (List Byte)
deriving DecidableEq, Repr

/-- Every working register without a value, as at the start of each operation (R26) and at reset (R260). -/
def WorkRegs.empty : WorkRegs :=
  { crc := none, pay := none, hbufA := none, hbufB := none, ha := none, hb := none, nextSeq := none,
    target := none, pick := none, srTmp := none, rx := none }

/-! ## The peer device's state -/

/-- The bytes of the data array that something has written, each with its address, addresses strictly rising. A byte
not listed has never been written: it is read through `Memory.read` (log 3). -/
abbrev Memory := List Host.Cell

/-- What the spec leaves to the device and the bus, fixed for a machine (00_scope.md R7, 10_state.md R21, 40_driver.md
R115; log 5, 35). -/
structure DeviceParams where
  /-- `WEL_AUTO_CLEAR`. -/
  welAutoClear : Bool
  /-- `SR_WRITABLE_MASK`. -/
  srWritableMask : Byte
  /-- The bus capability has the WP line (R21). -/
  wpWired : Bool
  /-- There is a device on the far side of the bus; else it is absent (R115; log 35). -/
  present : Bool
deriving DecidableEq, Repr

/-- The serial MRAM on the far side of the bus (10_state.md R31, R38, R39). Where `params.present` is false the device is
absent: the other fields stand for nothing, are seen by nothing and never change (log 35). -/
structure Device where
  /-- The status register (R31). -/
  sr : Byte
  /-- The sleep state (R39). -/
  asleep : Bool
  /-- A sleeping device has taken WAKE and its 400 µs have not passed (R121, D20(i); log 8). -/
  waking : Bool
  /-- The data array (R38). -/
  array : Memory
  /-- The parameters of this device and bus. -/
  params : DeviceParams
deriving DecidableEq, Repr

/-! ## The environment -/

/-- What cuts or stalls an operation (20_memory.md R63, 70_reset_and_hazards.md R278). -/
inductive MishapKind where
  /-- Power is lost (R63, R241, D21). -/
  | powerLoss
  /-- The bus fails and the operation stops (R63, R241, D21). -/
  | busFault
  /-- A byte exchange never completes (R278). -/
  | hang
deriving DecidableEq, Repr

/-- An event of the environment armed to happen once `after` more bus actions are done (log 14). -/
structure Mishap where
  kind : MishapKind
  after : Nat
deriving DecidableEq, Repr

/-- What an observer of the bus sees (60_exceptions.md R249; notation of 30_encoding.md R97, which writes completed
transactions only). -/
inductive BusEvent where
  /-- A completed transaction: the bytes sent and the bytes captured (R83). -/
  | txn (sent captured : List Byte)
  /-- A transaction cut after some of its bytes: the bytes sent before the cut. DESIGN CHOICE: R249 and R97 do not say what
  the trace shows of a cut transaction; the model keeps the bytes sent and drops any captured before the cut, as a cut
  READ or RDSR may have (log 37). -/
  | cutTxn (sent : List Byte)
  /-- `Delay(≥us µs)`. -/
  | delay (us : Nat)
  /-- `SetWP(level)`. -/
  | setWp (level : Bool)
  /-- `SetHold(level)` (R10). -/
  | setHold (level : Bool)
deriving DecidableEq, Repr

/-- What a step can find presented (30_encoding.md R90; 70_reset_and_hazards.md R260; 60_exceptions.md R241; log 11). -/
inductive Input where
  /-- A host request, or a serial frame of the opcode table (log 12). -/
  | code (c : Code)
  /-- The block is reset, the device is not (R260; program P4 step 0). -/
  | blockReset
  /-- Power is lost and returns while no bus action is in progress (R261). -/
  | powerLoss
  /-- The environment arms a mishap. -/
  | arm (m : Mishap)
deriving DecidableEq, Repr

/-- What a STORE_WRITE between its two writes leaves in its target slot: the header still standing there, and the payload
it has just written (43_store.md R211 "Transient"; log 36). -/
structure Unfinished where
  header : List Byte
  payload : List Byte
deriving DecidableEq, Repr

/-! ## The whole state -/

/-- The state of the machine (10_state.md R20): the block's own, the peer device's, and the model's own fields. -/
structure State where
  /-- Chip-select, true when asserted (R22). -/
  cs : Bool
  /-- The write-protect line, true when asserted (R23). -/
  wp : Bool
  /-- The hold line, true when asserted (R24). -/
  hold : Bool
  /-- The operation sequencer (R28). -/
  seq : Seq
  /-- The working registers (R26). -/
  regs : WorkRegs
  /-- The response; `none` is the spec's own "no value" (R29; log 10). -/
  response : Option Response
  /-- The peer device (R31 to R39). -/
  dev : Device
  /-- The model's own: how many bytes of the oracle have been used (log 7). -/
  draws : Nat
  /-- The model's own: the armed event of the environment (log 14). -/
  mishap : Option Mishap
  /-- The model's own: the bus actions so far, oldest first (R249; log 19). -/
  trace : List BusEvent
  /-- The model's own: what will be presented, next first (R90; log 11). -/
  inputs : List Input
  /-- The model's own: what the last STORE_WRITE to target slot A left there, if it has not finished (43_store.md R211;
  log 36). -/
  unfinishedA : Option Unfinished
  /-- The same of slot B. -/
  unfinishedB : Option Unfinished
deriving DecidableEq, Repr

/-! ## Why a step can stop -/

/-- The faults. -/
inductive Fault where
  /-- An operation read a working register that holds no value. Raised by the register reads of Machine/Ops.lean, as
  10_state.md R26 demands. Safe: the spec calls it a fault, and no operation reaches it. -/
  | unwrittenRegister (r : WorkReg)
  /-- A serial READ or WRITE frame would move a byte outside the array (20_memory.md R51). Raised by the serial
  commands of Machine/Serial.lean. Safe: the block never sends such a frame (30_encoding.md R84). -/
  | noSuchAddress
deriving DecidableEq, Repr

/-- The refusals. -/
inductive Refusal where
  /-- `exec`'s arm of an instruction without a meaning. Safe: nothing is claimed of it. -/
  | notModelled (mnemonic : String)
  /-- An operation is asked for while the sequencer is Busy: such a request has no move (20_memory.md R71, D28).
  Raised by every meaning and by the step. Safe: nothing is claimed of such a host. -/
  | requestWhileBusy
  /-- A bracket's bytes are no frame the block sends (30_encoding.md R87). Raised by the step. Safe: the block cannot
  produce them. -/
  | notSentByBlock
  /-- The response is read before an operation has ended (10_state.md R29). Raised by `State.readResponse`, which no
  step calls. Safe: the spec gives no value there. -/
  | noResponse
deriving DecidableEq, Repr

/-- How the body of an operation ends early. -/
inductive Stop where
  /-- `raise`: an error of the operation (60_exceptions.md R237). -/
  | raised (c : ResultCode)
  /-- A mishap ended or stalled it; the state says how (R241). -/
  | abandoned
  /-- A fault of the model. -/
  | faulted (f : Fault)
deriving DecidableEq, Repr

/-- How a body ends: normally with a value, or early. -/
inductive Res (α : Type) where
  | ok (a : α) (s : State)
  | stop (e : Stop) (s : State)

/-! ## Reset -/

/-- The device as the block finds it at first power-up: every value of it left open (R261; log 1, 2, 3, 5, 8, 35). -/
def Device.powerUpDefault : Device :=
  { sr := Config.powerUpSr
    asleep := Config.powerUpAsleep
    waking := false
    array := []
    params :=
      { welAutoClear := Config.welAutoClear
        srWritableMask := Config.srWritableMask
        wpWired := Config.wpWired
        present := Config.devicePresent } }

/-- The machine right after reset, bound to a device `d` (R260): a claim about a run from reset is made for every `d`,
since R261 asks a model to quantify over the device's values. -/
def State.resetWith (d : Device) : State :=
  { cs := false
    wp := false
    hold := false
    seq := .idle
    regs := WorkRegs.empty
    response := none
    dev := d
    draws := 0
    mishap := none
    trace := []
    inputs := []
    unfinishedA := none
    unfinishedB := none }

/-- The machine right after reset (R260), with a device of open values (R261). -/
def State.reset : State := State.resetWith Device.powerUpDefault

end Sys2Proof.Machine
end

