-- ==== Sys2Proof/Machine/Flags.lean ====
section
/-! DEFINITION. The bits of the device's status register (10_state.md R31 to R35), the byte DRV_SET_BP writes back
(40_driver.md R122, R123), and the numeric result codes (60_exceptions.md R231). -/

namespace Sys2Proof.Machine

/-- WEL, status bit 1 (R31, R33). -/
def wel (sr : Byte) : Bool := sr.getLsbD 1

/-- BP1:BP0, status bits 3:2 (R31, R34). -/
def bp (sr : Byte) : BitVec 2 := sr.extractLsb' 2 2

/-- SRWD, status bit 7 (R31, R35). -/
def srwd (sr : Byte) : Bool := sr.getLsbD 7

/-- The status byte with WEL set to `b`. -/
def setWel (sr : Byte) (b : Bool) : Byte := if b then sr ||| 0x02#8 else sr &&& 0xFD#8

/-- The protection levels (R34). -/
inductive ProtectLevel where
  | none
  | upperQuarter
  | upperHalf
  | all
deriving DecidableEq, Repr

/-- `bp(level)`, the value of SR[3:2] for a level (40_driver.md R122). -/
def ProtectLevel.bits : ProtectLevel → BitVec 2
  | .none => 0b00#2
  | .upperQuarter => 0b01#2
  | .upperHalf => 0b10#2
  | .all => 0b11#2

/-- The level that SR[3:2] selects (R34). -/
def levelOf (b : BitVec 2) : ProtectLevel :=
  if b = 0b00#2 then .none
  else if b = 0b01#2 then .upperQuarter
  else if b = 0b10#2 then .upperHalf
  else .all

/-- The addresses a level protects, against the 512 KiB array (R34). -/
def ProtectLevel.protects : ProtectLevel → Nat → Bool
  | .none, _ => false
  | .upperQuarter, a => decide (0x60000 ≤ a)
  | .upperHalf, a => decide (0x40000 ≤ a)
  | .all, _ => true

/-- Address `a` lies in the part that the status byte protects (R34). -/
def isProtected (sr : Byte) (a : Nat) : Bool := (levelOf (bp sr)).protects a

/-- `SR_TMP`: BP cleared and set to the level, SRWD set when `hw_lock` is requested, every other bit as read
(40_driver.md R123). -/
def newStatus (sr : Byte) (level : BitVec 2) (hwLock : Bool) : Byte :=
  let t := (sr &&& 0xF3#8) ||| (level.setWidth 8 <<< 2)
  if hwLock then t ||| 0x80#8 else t

/-- The numeric result codes (60_exceptions.md R231, decision D3). -/
def ResultCode.code : ResultCode → Byte
  | .ok => 0x00#8
  | .range => 0x01#8
  | .format => 0x02#8
  | .integrity => 0x03#8
  | .notFound => 0x04#8
  | .overflow => 0x05#8
  | .illegalOp => 0xFF#8

/-- The response of an operation that completes (R29, R231). -/
def Response.success (d : RespData) : Response := { result := ResultCode.ok.code, data := d }

/-- The response of an operation that raises an error: the code and empty data (R29, R237). -/
def Response.failure (c : ResultCode) : Response := { result := c.code, data := .empty }

end Sys2Proof.Machine
end

