-- ==== Sys2Proof/Machine/Memory.lean ====
section
/-! DEFINITION. The data array as a list of written bytes in one canonical form (10_state.md R38; 20_memory.md R50). -/

namespace Sys2Proof.Machine

/-- The canonical form: addresses strictly rising. -/
abbrev Memory.wf (m : Memory) : Prop := List.Pairwise (fun x y => x.1 < y.1) m

/-- Every listed address is one of the array's (R50). -/
abbrev Memory.bounded (m : Memory) : Prop := ∀ c ∈ m, c.1 < Config.deviceCapacity

/-- The byte last written at an address, if any. -/
def Memory.cell? : Memory → Nat → Option Byte
  | [], _ => none
  | (b, v) :: m, a => if a = b then some v else Memory.cell? m a

/-- What address `a` holds: the byte last written, or the free value of a byte nothing has written (R38; log 3). -/
def Memory.read (m : Memory) (a : Nat) : Byte := (Memory.cell? m a).getD (Config.powerUpArray a)

/-- Write one byte, keeping the canonical form. -/
def Memory.write : Memory → Nat → Byte → Memory
  | [], a, v => [(a, v)]
  | (b, w) :: m, a, v =>
    if a < b then (a, v) :: (b, w) :: m
    else if a = b then (a, v) :: m
    else (b, w) :: Memory.write m a v

/-- The n bytes from address `a` upward (30_encoding.md R85). -/
def Memory.readRange (m : Memory) : Nat → Nat → List Byte
  | _, 0 => []
  | a, n + 1 => Memory.read m a :: Memory.readRange m (a + 1) n

/-- Write bytes from address `a` upward, those at addresses that `lands` admits (R85; D20(e)). -/
def Memory.writeRange (lands : Nat → Bool) : Memory → Nat → List Byte → Memory
  | m, _, [] => m
  | m, a, v :: vs => Memory.writeRange lands (if lands a then Memory.write m a v else m) (a + 1) vs

end Sys2Proof.Machine
end

