-- ==== Sys2Proof/Machine/Device.lean ====
section
/-! DEFINITION. The peer device: the reference device model of 92_eei_decisions.md D20 with its OPEN parameters, read
with 10_state.md R31 to R39 and 20_memory.md R63, R64; and the absent device of 40_driver.md R115. -/

namespace Sys2Proof.Machine

/-- n bytes of the oracle from its `draw`-th on: any values (40_driver.md R128, D20(i), D21; log 7). -/
def oracleBytes (draw : Nat) : Nat → List Byte
  | 0 => []
  | n + 1 => Config.oracleByte draw :: oracleBytes (draw + 1) n

/-- A free bit: bit 0 of a byte of the oracle. -/
def oracleBit (draw : Nat) : Bool := (Config.oracleByte draw).getLsbD 0

/-- The device takes commands and answers them: it is there and awake. A sleeping or an absent one gives whatever the line
carries (40_driver.md R115; 70_reset_and_hazards.md R276; log 35). -/
def Device.answers (d : Device) : Bool := d.params.present && !d.asleep

/-- The device after something that makes `e` of a device that is there: where it is absent there is nothing to change
(40_driver.md R115; log 35). -/
def Device.ifPresent (d e : Device) : Device := if d.params.present then e else d

/-- The device sees WP asserted: the block drives it and the bus has the line (10_state.md R21). -/
def Device.wpSeen (d : Device) (wp : Bool) : Bool := wp && d.params.wpWired

/-- WEL after a WRITE or WRSR that an awake device has received (`WEL_AUTO_CLEAR`; D20(f); log 6). -/
def Device.welAfterWrite (d : Device) (sr : Byte) : Byte := if d.params.welAutoClear then setWel sr false else sr

/-- SR after WRSR `v`: with WEL set, and not (SRWD set and WP asserted), the writable bits change (D20(c)). -/
def Device.writeStatus (d : Device) (wp : Bool) (v : Byte) : Byte :=
  let m := d.params.srWritableMask
  if wel d.sr && !(srwd d.sr && d.wpSeen wp) then (d.sr &&& ~~~m) ||| (v &&& m) else d.sr

/-- The data array after WRITE: with WEL set, every byte outside the protected part lands (D20(e); R85). -/
def Device.writeArray (d : Device) (addr : Nat) (data : List Byte) : Memory :=
  if wel d.sr then Memory.writeRange (fun a => !isProtected d.sr a) d.array addr data else d.array

/-- What a completed transaction does to the device (D20; R33, R39, R64): a sleeping device ignores every command but
WAKE, and a WAKE takes effect once its wait has passed (R121); an absent one takes nothing (R115; log 35). -/
def Device.apply (d : Device) (wp : Bool) (f : Frame) : Device :=
  d.ifPresent <|
  if d.asleep then
    match f with
    | .wake => { d with waking := true }
    | .wrsr _ | .write _ _ | .read _ _ | .wrdi | .rdsr | .wren | .sleep => d
  else
    match f with
    | .wrsr v => { d with sr := d.welAfterWrite (d.writeStatus wp v) }
    | .write addr data => { d with sr := d.welAfterWrite d.sr, array := d.writeArray addr.toNat data }
    | .wren => { d with sr := setWel d.sr true }
    | .wrdi => { d with sr := setWel d.sr false }
    | .sleep => { d with asleep := true, waking := false }
    | .read _ _ | .rdsr | .wake => d

/-- The bytes clocked in while a frame is clocked out, one for each byte sent (00_scope.md R10): the status byte and
the array's bytes at the captured positions of a device that answers (30_encoding.md R83, R85), any value elsewhere
(40_driver.md R128), and from a sleeping or absent device any value at every position, whatever the line carries (R115;
70_reset_and_hazards.md R276). -/
def Device.incoming (d : Device) (draw : Nat) (f : Frame) : List Byte :=
  if d.answers then
    match f with
    | .read addr n => oracleBytes draw 4 ++ Memory.readRange d.array addr.toNat n
    | .rdsr => oracleBytes draw 1 ++ [d.sr]
    | .wrsr _ | .write _ _ | .wrdi | .wren | .wake | .sleep => oracleBytes draw f.bytes.length
  else oracleBytes draw f.bytes.length

/-- The incoming bytes the block keeps (30_encoding.md R83). -/
def capturedBytes (f : Frame) (rx : List Byte) : List Byte :=
  match f with
  | .read _ _ => rx.drop 4
  | .rdsr => rx.drop 1
  | .wrsr _ | .write _ _ | .wrdi | .wren | .wake | .sleep => []

/-- What a cut transaction leaves: every byte of the range a WRITE was writing holds any value (20_memory.md R63, D21),
and so does every bit of the device that the frame could have changed (log 15); an absent device has no such byte or bit
(log 35). -/
def Device.cut (d : Device) (draw : Nat) (f : Frame) : Device :=
  let free := oracleBit (draw + f.bytes.length)
  d.ifPresent <|
  match f with
  | .write addr data =>
    { d with
      sr := setWel d.sr free
      array := Memory.writeRange (fun _ => true) d.array addr.toNat (oracleBytes draw data.length) }
  | .wrsr _ => { d with sr := Config.oracleByte (draw + f.bytes.length) }
  | .wren | .wrdi => { d with sr := setWel d.sr free }
  | .sleep => { d with asleep := d.asleep || free }
  | .wake => { d with waking := d.asleep && free }
  | .read _ _ | .rdsr => d

/-- A wait with chip-select released: 400 µs after WAKE the device is awake (R121, D20(i); log 34), if there is one. -/
def Device.elapse (d : Device) (us : Nat) : Device :=
  d.ifPresent <|
  if d.waking && decide (Config.tWakeUs ≤ us) then { d with asleep := false, waking := false } else d

/-- The device after power has been lost and has returned: the array keeps its bytes (R38), SR and the sleep state hold
any value (R261; log 17); an absent one has neither. -/
def Device.powerCycle (d : Device) (draw : Nat) : Device :=
  d.ifPresent
  { d with sr := Config.oracleByte draw, asleep := oracleBit (draw + 1), waking := false }

end Sys2Proof.Machine
end

