-- ==== Sys2Proof/Machine/Ops.lean ====
section
/-! DEFINITION. The shared operations: the life of an operation (10_state.md R28, R29; 60_exceptions.md R237), the bus
primitives (00_scope.md R10), the working registers (10_state.md R26), and what power loss, a bus fault, a hang and a
block reset do (20_memory.md R63; 70_reset_and_hazards.md R260, R261, R278; D21). -/

namespace Sys2Proof.Machine

/-- A body of an operation: it reads and changes the state, and may end early. -/
abbrev Op (α : Type) := State → Res α

/-- A step of a body that does nothing but give a value. -/
def Op.pure {α : Type} (a : α) : Op α := fun s => .ok a s

/-- One step of a body after another: an early end of the first is the end of both (60_exceptions.md R238). -/
def Op.bind {α β : Type} (x : Op α) (f : α → Op β) : Op β := fun s =>
  match x s with
  | .ok a t => f a t
  | .stop e t => .stop e t

/-- A step whose value is not needed. -/
def Op.andThen {α β : Type} (x : Op α) (y : Op β) : Op β := Op.bind x (fun _ => y)

/-! ## The life of an operation -/

/-- Acceptance (R28): the sequencer goes Busy with no bus action done, and every working register holds no value (R26). -/
def State.accept (s : State) (i : Instr) : State := { s with seq := .busy i 0, regs := WorkRegs.empty }

/-- The end of a host operation, OK or error (R22, R28, R29): chip-select released, sequencer Idle, response written. -/
def State.respond (s : State) (r : Response) : State := { s with cs := false, seq := .idle, response := some r }

/-- The end of a serial command run on its own: as `respond`, with no response, since no host asked (log 12). -/
def State.release (s : State) : State := { s with cs := false, seq := .idle }

/-- ILLEGAL_OP: the response and nothing else (30_encoding.md R92, R93, R95). -/
def State.illegalOp (s : State) : State := { s with response := some (Response.failure .illegalOp) }

/-- The response a host reads, refused before any operation has ended (R29). -/
def State.readResponse (s : State) : Except Refusal Response :=
  match s.response with
  | some r => .ok r
  | none => .error .noResponse

/-- Raise an error of the operation: no later step of it is performed (60_exceptions.md R237; 00_scope.md R12). -/
def raise {α : Type} (c : ResultCode) : Op α := fun s => .stop (.raised c) s

/-- The outcome of an operation from the way its body ended: `complete` says what a normal end writes; a raised error
writes its response and returns to Idle, with nothing rolled back (R237); a mishap has already left its state. -/
def settle {α : Type} (complete : α → State → State) :
    Res α → Host.Outcome State Fault Refusal
  | .ok a t => .next (complete a t)
  | .stop (.raised c) t => .next (t.respond (Response.failure c))
  | .stop .abandoned t => .next t
  | .stop (.faulted f) _ => .fault f

/-- Perform a host request (30_encoding.md R90): only in Idle (R28, R71); the operand checks first (60_exceptions.md R240), then
the body, whose value is the response's data. -/
def hostOp (i : Instr) (body : Op RespData) (s : State) : Host.Outcome State Fault Refusal :=
  match s.seq with
  | .busy _ _ => .refused .requestWhileBusy
  | .idle =>
    if i.wellFormed then settle (fun d t => t.respond (Response.success d)) (body (s.accept i))
    else .next s.illegalOp

/-! ## The working registers (R26) -/

/-- The value of a working register, or the fault of reading one that holds none (R26). -/
def readReg {α : Type} (name : WorkReg) (get : WorkRegs → Option α) : Op α := fun s =>
  match get s.regs with
  | some v => .ok v s
  | none => .stop (.faulted (.unwrittenRegister name)) s

/-- Change the working registers. -/
def writeRegs (upd : WorkRegs → WorkRegs) : Op Unit := fun s => .ok () { s with regs := upd s.regs }

/-- Read `CRC`. -/
def getCrc : Op Word := readReg .crc WorkRegs.crc
/-- Read `PAY`. -/
def getPay : Op (List Byte) := readReg .pay WorkRegs.pay
/-- Read `NEXT_SEQ`. -/
def getNextSeq : Op DWord := readReg .nextSeq WorkRegs.nextSeq
/-- Read `TARGET`. -/
def getTarget : Op Slot := readReg .target WorkRegs.target
/-- Read `PICK`. -/
def getPick : Op Slot := readReg .pick WorkRegs.pick
/-- Read `SR_TMP`. -/
def getSrTmp : Op Byte := readReg .srTmp WorkRegs.srTmp
/-- Read `RX`. -/
def getRx : Op (List Byte) := readReg .rx WorkRegs.rx
/-- Read `HBUF_A` or `HBUF_B`. -/
def getHbuf : Slot → Op (List Byte)
  | .A => readReg .hbufA WorkRegs.hbufA
  | .B => readReg .hbufB WorkRegs.hbufB
/-- Read `HA` or `HB`. -/
def getHdr : Slot → Op (Option Header)
  | .A => readReg .ha WorkRegs.ha
  | .B => readReg .hb WorkRegs.hb

/-- Write `CRC`. -/
def setCrc (v : Word) : Op Unit := writeRegs (fun r => { r with crc := some v })
/-- Write `PAY`. -/
def setPay (v : List Byte) : Op Unit := writeRegs (fun r => { r with pay := some v })
/-- Write `NEXT_SEQ`. -/
def setNextSeq (v : DWord) : Op Unit := writeRegs (fun r => { r with nextSeq := some v })
/-- Write `TARGET`. -/
def setTarget (v : Slot) : Op Unit := writeRegs (fun r => { r with target := some v })
/-- Write `PICK`. -/
def setPick (v : Slot) : Op Unit := writeRegs (fun r => { r with pick := some v })
/-- Write `SR_TMP`. -/
def setSrTmp (v : Byte) : Op Unit := writeRegs (fun r => { r with srTmp := some v })
/-- Write `RX`. -/
def setRx (v : List Byte) : Op Unit := writeRegs (fun r => { r with rx := some v })
/-- Write `HBUF_A` or `HBUF_B`. -/
def setHbuf (slot : Slot) (v : List Byte) : Op Unit :=
  match slot with
  | .A => writeRegs (fun r => { r with hbufA := some v })
  | .B => writeRegs (fun r => { r with hbufB := some v })
/-- Write `HA` or `HB`. -/
def setHdr (slot : Slot) (v : Option Header) : Op Unit :=
  match slot with
  | .A => writeRegs (fun r => { r with ha := some v })
  | .B => writeRegs (fun r => { r with hb := some v })

/-! ## A slot between the two writes of a STORE_WRITE (43_store.md R211; log 36) -/

/-- What the last STORE_WRITE to a target slot left there, if it has not finished. -/
def State.unfinished (s : State) : Slot → Option Unfinished
  | .A => s.unfinishedA
  | .B => s.unfinishedB

/-- Record what a STORE_WRITE has left in a slot, or that it has finished. -/
def State.setUnfinished (s : State) (slot : Slot) (u : Option Unfinished) : State :=
  { s with
    unfinishedA := if slot = .A then u else s.unfinishedA
    unfinishedB := if slot = .B then u else s.unfinishedB }

/-! ## What the environment does -/

/-- A reset of the block: its own state as R260 gives it; the device, the environment and the history stay. -/
def State.blockReset (s : State) : State :=
  { s with cs := false, wp := false, hold := false, seq := .idle, regs := WorkRegs.empty, response := none }

/-- Power lost and back: the block as after reset (R260), the device as R261 leaves it (log 17). -/
def State.powerLoss (s : State) : State :=
  { s.blockReset with dev := s.dev.powerCycle s.draws, draws := s.draws + 2 }

/-- What a mishap of each kind makes of the operation in progress: power loss restarts block and device; a bus fault
stops the operation with chip-select released and no response (R22, D21; log 16); a hang leaves it Busy for ever (R278). -/
def State.struck (s : State) : MishapKind → State
  | .powerLoss => s.powerLoss
  | .busFault => { s with cs := false, seq := .idle, response := none }
  | .hang => s

/-- The sequencer after n more bus actions (R28). -/
def Seq.advance : Seq → Nat → Seq
  | .idle, _ => .idle
  | .busy op k, n => .busy op (k + n)

/-- The mishap seen n bus actions later. -/
def Mishap.later (m : Mishap) (n : Nat) : Mishap := { m with after := m.after - n }

/-- In a transaction of `len` bytes, `len + 2` bus actions, the number of them done when the mishap happens, if it does:
a cut comes before any of them (D21); a hang comes at a byte exchange, so after Select (R278). -/
def Mishap.firesIn (m : Mishap) (len : Nat) : Option Nat :=
  match m.kind with
  | .powerLoss | .busFault => if m.after < len + 2 then some m.after else none
  | .hang => if m.after ≤ len then some (max m.after 1) else none

/-- The mishap happens instead of the next single bus action: only a byte exchange can hang (R278). -/
def Mishap.firesNow (m : Mishap) : Bool :=
  match m.kind with
  | .powerLoss | .busFault => m.after == 0
  | .hang => false

/-! ## The bus primitives (00_scope.md R10) -/

/-- The state after a completed transaction (R63, R66, R67): the device has taken its whole effect, chip-select is
released (R22), and the sequencer has counted Select, each byte, and Deselect (R28). -/
def State.afterTxn (s : State) (f : Frame) : State :=
  { s with
    cs := false
    seq := s.seq.advance (f.bytes.length + 2)
    dev := s.dev.apply s.wp f
    draws := s.draws + f.bytes.length
    mishap := s.mishap.map (fun m => m.later (f.bytes.length + 2))
    trace := s.trace ++ [.txn f.bytes (capturedBytes f (s.dev.incoming s.draws f))] }

/-- The state when a mishap happens after `done` bus actions of a transaction, before what its kind makes of it: once
chip-select is asserted the transaction is cut (R63, D21). DESIGN CHOICE: the trace, of which R249 and R97 do not say what
it shows of a cut transaction, then has the bytes sent, and none that were captured before the cut (log 37). -/
def State.cutTxn (s : State) (f : Frame) (done : Nat) : State :=
  if done = 0 then { s with mishap := none }
  else
    { s with
      cs := true
      seq := s.seq.advance done
      dev := s.dev.cut s.draws f
      draws := s.draws + f.bytes.length + 2
      mishap := none
      trace := s.trace ++ [.cutTxn (f.bytes.take (done - 1))] }

/-- `Txn(tx)`: one chip-select bracket holding one frame (R10, R81); its value is the captured bytes (R83). -/
def txn (f : Frame) : Op (List Byte) := fun s =>
  match s.mishap with
  | none => .ok (capturedBytes f (s.dev.incoming s.draws f)) (s.afterTxn f)
  | some m =>
    match m.firesIn f.bytes.length with
    | none => .ok (capturedBytes f (s.dev.incoming s.draws f)) (s.afterTxn f)
    | some done => .stop .abandoned ((s.cutTxn f done).struck m.kind)

/-- The state after a single bus action that is no byte exchange. -/
def State.afterAction (s : State) (ev : BusEvent) : State :=
  { s with
    seq := s.seq.advance 1
    mishap := s.mishap.map (fun m => m.later 1)
    trace := s.trace ++ [ev] }

/-- One bus action outside a transaction, whose effect is `upd`. -/
def action (ev : BusEvent) (upd : State → State) : Op Unit := fun s =>
  match s.mishap with
  | none => .ok () ((upd s).afterAction ev)
  | some m =>
    if m.firesNow then .stop .abandoned ({ s with mishap := none : State }.struck m.kind)
    else .ok () ((upd s).afterAction ev)

/-- `Delay(us)`: wait at least `us` microseconds (R10; 70_reset_and_hazards.md R281). -/
def delay (us : Nat) : Op Unit := action (.delay us) (fun s => { s with dev := s.dev.elapse us })

/-- `SetWP(level)` (R10; 10_state.md R23). -/
def driveWp (level : Bool) : Op Unit := action (.setWp level) (fun s => { s with wp := level })

/-- `SetHold(level)` (R10): a primitive of the bus capability that no operation uses (10_state.md R24). -/
def driveHold (level : Bool) : Op Unit := action (.setHold level) (fun s => { s with hold := level })

/-! ## The driver's `read` and `write` (00_scope.md R11) -/

/-- The range check, before any bus action (40_driver.md R110). -/
def checkRange (addr : Word) (n : Nat) : Op Unit := fun s =>
  if rangeOk addr n then .ok () s else .stop (.raised .range) s

/-- `WEN()`: WREN in a transaction of its own (40_driver.md R112). -/
def writeEnable : Op Unit := (txn .wren).andThen (Op.pure ())

/-- `MemRead(addr, n)`, the driver's `read` (40_driver.md R111). -/
def memRead (addr : Word) (n : Nat) : Op (List Byte) :=
  (checkRange addr n).andThen <|
  (txn (.read (busAddr addr) n)).bind fun rx =>
  (setRx rx).andThen
  getRx

/-- `MemWrite(addr, n, v)`, the driver's `write` (40_driver.md R113). -/
def memWrite (addr : Word) (data : List Byte) : Op Unit :=
  (checkRange addr data.length).andThen <|
  writeEnable.andThen <|
  (txn (.write (busAddr addr) data)).andThen (Op.pure ())

/-- `read_status` (40_driver.md R115): `RX[0]`, the one byte captured, with no masking (R116). -/
def readStatus : Op Byte :=
  (txn .rdsr).bind fun rx =>
  (setRx rx).andThen <|
  getRx.bind fun rx =>
  Op.pure (rx.headD 0#8)

/-- `write_status` (40_driver.md R117). -/
def writeStatus (v : Byte) : Op Unit := writeEnable.andThen <| (txn (.wrsr v)).andThen (Op.pure ())

end Sys2Proof.Machine
end

