-- ==== Sys2Proof/Machine/Driver.lean ====
section
/-! DEFINITION. The chip driver's host operations (40_driver.md R110 to R128). -/

namespace Sys2Proof.Machine

/-- DRV_READ (R111). -/
def execDrvRead (addr n : Word) (s : State) : Host.Outcome State Fault Refusal :=
  hostOp (.drvRead addr n) ((memRead addr n.toNat).bind fun rx => Op.pure (.bytes rx)) s

/-- DRV_WRITE (R113). -/
def execDrvWrite (addr : Word) (data : List Byte) (s : State) : Host.Outcome State Fault Refusal :=
  hostOp (.drvWrite addr data) ((memWrite addr data).andThen (Op.pure .empty)) s

/-- DRV_RDSR (R115). -/
def execDrvRdsr (s : State) : Host.Outcome State Fault Refusal :=
  hostOp .drvRdsr (readStatus.bind fun sr => Op.pure (.status sr)) s

/-- DRV_WRSR (R117). -/
def execDrvWrsr (v : Byte) (s : State) : Host.Outcome State Fault Refusal :=
  hostOp (.drvWrsr v) ((writeStatus v).andThen (Op.pure .empty)) s

/-- DRV_WREN (R118). -/
def execDrvWren (s : State) : Host.Outcome State Fault Refusal :=
  hostOp .drvWren ((txn .wren).andThen (Op.pure .empty)) s

/-- DRV_WRDI (R119). -/
def execDrvWrdi (s : State) : Host.Outcome State Fault Refusal :=
  hostOp .drvWrdi ((txn .wrdi).andThen (Op.pure .empty)) s

/-- DRV_SLEEP (R120): the wait comes after chip-select is released. -/
def execDrvSleep (s : State) : Host.Outcome State Fault Refusal :=
  hostOp .drvSleep ((txn .sleep).andThen <| (delay Config.tSleepUs).andThen (Op.pure .empty)) s

/-- DRV_WAKE (R121): the wait comes after chip-select is released. -/
def execDrvWake (s : State) : Host.Outcome State Fault Refusal :=
  hostOp .drvWake ((txn .wake).andThen <| (delay Config.tWakeUs).andThen (Op.pure .empty)) s

/-- `set_block_protect` (R123 to R126): read SR, compute `SR_TMP`, assert WP when locking, write-enable, write SR. -/
def setBlockProtect (cfg : Byte) : Op Unit :=
  readStatus.bind fun sr =>
  (setSrTmp (newStatus sr (cfgLevel cfg) (cfgHwLock cfg))).andThen <|
  (if cfgHwLock cfg then driveWp true else Op.pure ()).andThen <|
  getSrTmp.bind fun v =>
  writeStatus v

/-- DRV_SET_BP (R126). -/
def execDrvSetBp (cfg : Byte) (s : State) : Host.Outcome State Fault Refusal :=
  hostOp (.drvSetBp cfg) ((setBlockProtect cfg).andThen (Op.pure .empty)) s

end Sys2Proof.Machine
end

