-- ==== Sys2Proof/Machine/Serial.lean ====
section
/-! DEFINITION. The eight serial command frames as instructions of their own (30_encoding.md R81 to R87): one
transaction each, as every host operation sends it (log 12). -/

namespace Sys2Proof.Machine

/-- One frame in one bracket (R81): sent while no operation is in progress, and only a frame the block can send
(R84, R87). -/
def serialOp (f : Frame) (body : Op Unit) (s : State) : Host.Outcome State Fault Refusal :=
  match s.seq with
  | .busy _ _ => .refused .requestWhileBusy
  | .idle => if f.wellFormed then settle (fun _ t => t.release) (body (s.accept f.instr)) else .fault .noSuchAddress

/-- A frame whose incoming bytes are all ignored (R83). -/
def sendOnly (f : Frame) : Op Unit := (txn f).andThen (Op.pure ())

/-- A frame whose captured bytes go to `RX` (R83; 10_state.md R26). -/
def sendAndCapture (f : Frame) : Op Unit := (txn f).bind fun rx => setRx rx

/-- WRSR, frame `[0x01, v]` (R83; 40_driver.md R117). -/
def execWrsr (v : Byte) (s : State) : Host.Outcome State Fault Refusal :=
  serialOp (.wrsr v) (sendOnly (.wrsr v)) s

/-- WRITE, frame `[0x02] ++ be3(addr) ++ data` (R83; 40_driver.md R113). -/
def execWrite (addr : BusAddr) (data : List Byte) (s : State) : Host.Outcome State Fault Refusal :=
  serialOp (.write addr data) (sendOnly (.write addr data)) s

/-- READ, frame `[0x03] ++ be3(addr) ++ zeros(n)` (R83; 40_driver.md R111). -/
def execRead (addr : BusAddr) (n : Nat) (s : State) : Host.Outcome State Fault Refusal :=
  serialOp (.read addr n) (sendAndCapture (.read addr n)) s

/-- WRDI, frame `[0x04]` (R83; 40_driver.md R119). -/
def execWrdi (s : State) : Host.Outcome State Fault Refusal :=
  serialOp .wrdi (sendOnly .wrdi) s

/-- RDSR, frame `[0x05, 0x00]` (R83; 40_driver.md R115). -/
def execRdsr (s : State) : Host.Outcome State Fault Refusal :=
  serialOp .rdsr (sendAndCapture .rdsr) s

/-- WREN, frame `[0x06]` (R83; 40_driver.md R112). -/
def execWren (s : State) : Host.Outcome State Fault Refusal :=
  serialOp .wren (sendOnly .wren) s

/-- WAKE, frame `[0xAB]`; the wait that wakes the device is DRV_WAKE's (R83; 40_driver.md R121). -/
def execWake (s : State) : Host.Outcome State Fault Refusal :=
  serialOp .wake (sendOnly .wake) s

/-- SLEEP, frame `[0xB9]` (R83; 40_driver.md R120). -/
def execSleep (s : State) : Host.Outcome State Fault Refusal :=
  serialOp .sleep (sendOnly .sleep) s

end Sys2Proof.Machine
end

