-- ==== Sys2Proof/Machine/Codec.lean ====
section
/-! DEFINITION. The record codec (41_codec.md) and its host operations REC_ENCODE and REC_DECODE. -/

namespace Sys2Proof.Machine

/-- The 20-byte payload of a record (R152). -/
def encodeRecord (r : Bureau) : List Byte :=
  le8 r.progQty ++ le4 r.mathQty ++ [r.headQty] ++ zeros 3 ++ le4 r.salaryBits

/-- The record of a payload; bytes 13 to 15 are not read (R152, R155). -/
def decodeRecord (b : List Byte) : Bureau :=
  { progQty := BitVec.ofNat 64 (fromLe (slice b 0 8))
    mathQty := BitVec.ofNat 32 (fromLe (slice b 8 12))
    headQty := BitVec.ofNat 8 (fromLe (slice b 12 13))
    salaryBits := BitVec.ofNat 32 (fromLe (slice b 16 20)) }

/-- The count check of R156: a value that `COUNT_WIDTH` bits cannot hold raises OVERFLOW. -/
def checkCount (p : Nat) : Op Unit := fun s =>
  if 2 ^ Config.countWidth ≤ p then .stop (.raised .overflow) s else .ok () s

/-- Codec encode: `PAY <- …; return PAY` (R153). -/
def codecEncode (r : Bureau) : Op (List Byte) :=
  (checkCount r.progQty.toNat).andThen <|
  (setPay (encodeRecord r)).andThen
  getPay

/-- Codec decode (R155). -/
def codecDecode (b : List Byte) : Op Bureau :=
  (checkCount (fromLe (slice b 0 8))).andThen <|
  Op.pure (decodeRecord b)

/-- REC_ENCODE (R153). -/
def execRecEncode (r : Bureau) (s : State) : Host.Outcome State Fault Refusal :=
  hostOp (.recEncode r) ((codecEncode r).bind fun p => Op.pure (.bytes p)) s

/-- REC_DECODE (R155). -/
def execRecDecode (b : List Byte) (s : State) : Host.Outcome State Fault Refusal :=
  hostOp (.recDecode b) ((codecDecode b).bind fun r => Op.pure (.bureau r)) s

end Sys2Proof.Machine
end

