-- ==== Sys2Proof/Machine/Crc.lean ====
section
/-! DEFINITION. The CRC32 generator (42_crc32.md) and its host operation CRC32. -/

namespace Sys2Proof.Machine

/-- One bit of the reflected register, least significant first (R171). -/
def crcBit (c : Word) : Word := if c.getLsbD 0 then (c >>> 1) ^^^ Config.crcPoly else c >>> 1

/-- The byte step (R171): the byte into the low bits, then eight bit steps. -/
def crcByte (c : Word) (b : Byte) : Word := Nat.repeat crcBit 8 (c ^^^ b.setWidth 32)

/-- The register after the bytes of `data`, in increasing order, from `c` (R173). -/
def crcUpdate (c : Word) (data : List Byte) : Word := data.foldl crcByte c

/-- The checksum of a byte list (R170 to R173). -/
def crc32 (data : List Byte) : Word := crcUpdate Config.crcInit data ^^^ Config.crcXorOut

/-- The generator run over `data` (R173): `CRC` is left holding the register before the final complement. -/
def crcRun (data : List Byte) : Op Word :=
  (setCrc (crcUpdate Config.crcInit data)).andThen <|
  getCrc.bind fun c =>
  Op.pure (c ^^^ Config.crcXorOut)

/-- CRC32 (R173). -/
def execCrc32 (data : List Byte) (s : State) : Host.Outcome State Fault Refusal :=
  hostOp (.crc32 data) ((crcRun data).bind fun c => Op.pure (.crc c)) s

end Sys2Proof.Machine
end

