-- ==== Sys2Proof/Machine/Header.lean ====
section
/-! DEFINITION. Record headers: the slot map (20_memory.md R52), the 24-byte header (R58), validation and build
(43_store.md R185 to R190), and the host operations HDR_VALIDATE and HDR_ENCODE. -/

namespace Sys2Proof.Machine

/-- `hdr_off(slot)` (R52). -/
def hdrOff : Slot → Nat
  | .A => Config.slotAHdr
  | .B => Config.slotBHdr

/-- `pay_off(slot)` (R52). -/
def payOff : Slot → Nat
  | .A => Config.slotAPay
  | .B => Config.slotBPay

/-- The other slot. -/
def Slot.other : Slot → Slot
  | .A => .B
  | .B => .A

/-- The fields of a 24-byte list (R185). -/
def parseHeader (h : List Byte) : Header :=
  { magic := BitVec.ofNat 32 (fromLe (slice h 0 4))
    version := BitVec.ofNat 16 (fromLe (slice h 4 6))
    reserved := BitVec.ofNat 16 (fromLe (slice h 6 8))
    length := BitVec.ofNat 32 (fromLe (slice h 8 12))
    crc32 := BitVec.ofNat 32 (fromLe (slice h 12 16))
    seqno := BitVec.ofNat 64 (fromLe (slice h 16 24)) }

/-- Magic, version and length all match the constants (R186, R206). -/
def Header.consistent (h : Header) : Bool :=
  h.magic == Config.magic && h.version == Config.version && h.length == BitVec.ofNat 32 Config.payloadSize

/-- `validate(h)` (R186). -/
def validate (h : List Byte) : Option Header :=
  if (parseHeader h).consistent then some (parseHeader h) else none

/-- `hdr_encode(crc, seq)` (R189). -/
def hdrEncode (crc : Word) (seq : DWord) : List Byte :=
  le4 Config.magic ++ le2 Config.version ++ le2 0#16 ++ le4 (BitVec.ofNat 32 Config.payloadSize) ++ le4 crc ++ le8 seq

/-- The response data of HDR_VALIDATE (R188). -/
def validityData (r : Option Header) : RespData :=
  match r with
  | none => .validity 0#8 none
  | some h => .validity 1#8 (some h)

/-- HDR_VALIDATE (R188). -/
def execHdrValidate (h : List Byte) (s : State) : Host.Outcome State Fault Refusal :=
  hostOp (.hdrValidate h) (Op.pure (validityData (validate h))) s

/-- HDR_ENCODE (R190). -/
def execHdrEncode (crc : Word) (seqno : DWord) (s : State) : Host.Outcome State Fault Refusal :=
  hostOp (.hdrEncode crc seqno) (Op.pure (.bytes (hdrEncode crc seqno))) s

end Sys2Proof.Machine
end

