-- ==== Sys2Proof/Machine/Store.lean ====
section
/-! DEFINITION. The redundant dual-slot store (43_store.md R191 to R213): sequence numbers, slot selection, and the
host operations STORE_WRITE and STORE_READ. -/

namespace Sys2Proof.Machine

/-- The larger of two sequence numbers, as unsigned integers (00_scope.md R12). -/
def maxSeq (a b : DWord) : DWord := if a ≤ b then b else a

/-- `next_seq(HA, HB)`: the largest valid sequence number plus one, modulo 2^64, or 1 (R197, decision D14). -/
def nextSeq (ha hb : Option Header) : DWord :=
  match ha, hb with
  | some a, some b => maxSeq a.seqno b.seqno + 1#64
  | some a, none => a.seqno + 1#64
  | none, some b => b.seqno + 1#64
  | none, none => 1#64

/-- `target(HA, HB)`: the slot to overwrite (R198). -/
def target (ha hb : Option Header) : Slot :=
  match ha, hb with
  | some a, some b => if a.seqno ≤ b.seqno then .A else .B
  | some _, none => .B
  | none, _ => .A

/-- `pick(HA, HB)` with its header: the slot to read, none when neither header is valid (R204, R205). -/
def pick (ha hb : Option Header) : Option (Slot × Header) :=
  match ha, hb with
  | some a, some b => if b.seqno ≤ a.seqno then some (.A, a) else some (.B, b)
  | some a, none => some (.A, a)
  | none, some b => some (.B, b)
  | none, none => none

/-! ## The bytes of a slot in the device -/

/-- The n bytes of the device's array from address `a` (10_state.md R38). -/
def Device.bytesAt (d : Device) (a n : Nat) : List Byte := Memory.readRange d.array a n

/-- The header of a slot, if it is valid (R186, R211). -/
def Device.header (d : Device) (slot : Slot) : Option Header := validate (d.bytesAt (hdrOff slot) Config.headerSize)

/-- The payload bytes of a slot (20_memory.md R60). -/
def Device.payload (d : Device) (slot : Slot) : List Byte := d.bytesAt (payOff slot) Config.payloadSize

/-! ## The operations -/

/-- `ReadHdr(s)` (R191). -/
def readHdr (slot : Slot) : Op Unit :=
  (memRead (BitVec.ofNat 32 (hdrOff slot)) Config.headerSize).bind fun rx =>
  (setHbuf slot rx).andThen <|
  (getHbuf slot).bind fun h =>
  setHdr slot (validate h)

/-- STORE_WRITE's steps 3 and 4: `NEXT_SEQ` and `TARGET` (R197, R198). -/
def chooseTarget : Op Unit :=
  (getHdr .A).bind fun ha =>
  (getHdr .B).bind fun hb =>
  (setNextSeq (nextSeq ha hb)).andThen <|
  setTarget (target ha hb)

/-- Step 5 stands between its two writes: the target slot is left with the header the device holds there and the new
payload (R211; log 36). It is no bus action and changes nothing but the model's record. -/
def beginHalf (slot : Slot) (payload : List Byte) : Op Unit := fun s =>
  .ok () (s.setUnfinished slot (some
    { header := s.dev.bytesAt (hdrOff slot) Config.headerSize, payload := payload }))

/-- Step 5 has finished: nothing is left half written in the target slot (R211; log 36). -/
def endHalf (slot : Slot) : Op Unit := fun s => .ok () (s.setUnfinished slot none)

/-- STORE_WRITE's step 5, first part: the payload (R199). -/
def writePayload : Op Unit :=
  getTarget.bind fun slot =>
  getPay.bind fun p =>
  (memWrite (BitVec.ofNat 32 (payOff slot)) p).andThen <|
  beginHalf slot p

/-- STORE_WRITE's step 5, second part: the header (R199). -/
def writeHeader : Op Unit :=
  getTarget.bind fun slot =>
  getCrc.bind fun c =>
  getNextSeq.bind fun n =>
  (memWrite (BitVec.ofNat 32 (hdrOff slot)) (hdrEncode c n)).andThen <|
  endHalf slot

/-- Encode and checksum: STORE_WRITE's step 1 (R193). -/
def preparePayload (r : Bureau) : Op Unit :=
  (codecEncode r).andThen <|
  getPay.bind fun p =>
  (crcRun p).bind fun c =>
  setCrc c

/-- STORE_WRITE's body (R193 to R200): the payload's write completes before the header's begins (R68, R199). -/
def storeWrite (r : Bureau) : Op DWord :=
  (preparePayload r).andThen <|
  (readHdr .A).andThen <|
  (readHdr .B).andThen <|
  chooseTarget.andThen <|
  writePayload.andThen <|
  writeHeader.andThen
  getNextSeq

/-- The defensive re-check of the picked header (R206). -/
def recheck (h : Header) : Op Unit := fun s =>
  if h.consistent then .ok () s else .stop (.raised .format) s

/-- The integrity check of the picked slot (R207): no fallback to the other slot. -/
def checkIntegrity (h : Header) (crc : Word) : Op Unit := fun s =>
  if crc = h.crc32 then .ok () s else .stop (.raised .integrity) s

/-- STORE_READ's step 4: the picked slot's payload and its checksum (R207). -/
def readPayload (h : Header) : Op Unit :=
  getPick.bind fun slot =>
  (memRead (BitVec.ofNat 32 (payOff slot)) Config.payloadSize).bind fun rx =>
  (setPay rx).andThen <|
  getPay.bind fun p =>
  (crcRun p).bind fun c =>
  (setCrc c).andThen <|
  getCrc.bind fun c =>
  checkIntegrity h c

/-- STORE_READ's steps 3 to 5 on the picked slot and header (R206 to R208). -/
def readPicked (slot : Slot) (h : Header) : Op RespData :=
  (setPick slot).andThen <|
  (recheck h).andThen <|
  (readPayload h).andThen <|
  getPay.bind fun p =>
  (codecDecode p).bind fun r =>
  Op.pure (.record r h.seqno)

/-- STORE_READ's step 2: NOT_FOUND when neither header is valid, else the picked slot (R204, R205). -/
def readPick (ha hb : Option Header) : Op RespData :=
  match pick ha hb with
  | none => raise .notFound
  | some (slot, h) => readPicked slot h

/-- STORE_READ's body (R203 to R209). -/
def storeRead : Op RespData :=
  (readHdr .A).andThen <|
  (readHdr .B).andThen <|
  (getHdr .A).bind fun ha =>
  (getHdr .B).bind fun hb =>
  readPick ha hb

/-- STORE_WRITE (R200). -/
def execStoreWrite (r : Bureau) (s : State) : Host.Outcome State Fault Refusal :=
  hostOp (.storeWrite r) ((storeWrite r).bind fun n => Op.pure (.seqno n)) s

/-- STORE_READ (R209). -/
def execStoreRead (s : State) : Host.Outcome State Fault Refusal :=
  hostOp .storeRead storeRead s

/-! ## Slot states (R211) -/

/-- The states of a slot (R211). -/
inductive SlotState where
  | invalid
  | written (n : DWord) (ok : Bool)
  /-- The new payload under the old header, between the two writes of STORE_WRITE's step 5. -/
  | transient
deriving DecidableEq, Repr

/-- What a slot's bytes alone say of it: invalid or written (R211). -/
def Device.slotState (d : Device) (slot : Slot) : SlotState :=
  match d.header slot with
  | none => .invalid
  | some h => .written h.seqno (crc32 (d.payload slot) == h.crc32)

/-- A STORE_WRITE has written its payload to the slot and not finished its header: the new payload stands in the slot
under the old header (R211; log 36). Power loss, a bus fault, a hang or a reset in between leave it so. -/
def State.transient (s : State) (slot : Slot) : Bool :=
  match s.unfinished slot with
  | none => false
  | some u => s.dev.bytesAt (hdrOff slot) Config.headerSize == u.header && s.dev.payload slot == u.payload

/-- The state of a slot, one of three at any time (R211): transient, or what its bytes say. -/
def State.slotState (s : State) (slot : Slot) : SlotState :=
  if s.transient slot then .transient else s.dev.slotState slot

end Sys2Proof.Machine
end

