-- ==== Sys2Proof/Machine/Dispatch.lean ====
section
/-! DEFINITION. One arm per instruction of opcode_table.json, each a call of its meaning. -/

namespace Sys2Proof.Machine

def exec (i : Instr) (s : State) : Host.Outcome State Fault Refusal :=
  match i with
  -- serial command frames (30_encoding.md R82)
  | .wrsr v => Sys2Proof.Machine.execWrsr v s
  | .write addr data => Sys2Proof.Machine.execWrite addr data s
  | .read addr n => Sys2Proof.Machine.execRead addr n s
  | .wrdi => Sys2Proof.Machine.execWrdi s
  | .rdsr => Sys2Proof.Machine.execRdsr s
  | .wren => Sys2Proof.Machine.execWren s
  | .wake => Sys2Proof.Machine.execWake s
  | .sleep => Sys2Proof.Machine.execSleep s
  -- host requests (30_encoding.md R91)
  | .drvRead addr n => Sys2Proof.Machine.execDrvRead addr n s
  | .drvWrite addr data => Sys2Proof.Machine.execDrvWrite addr data s
  | .drvRdsr => Sys2Proof.Machine.execDrvRdsr s
  | .drvWrsr v => Sys2Proof.Machine.execDrvWrsr v s
  | .drvWren => Sys2Proof.Machine.execDrvWren s
  | .drvWrdi => Sys2Proof.Machine.execDrvWrdi s
  | .drvSleep => Sys2Proof.Machine.execDrvSleep s
  | .drvWake => Sys2Proof.Machine.execDrvWake s
  | .drvSetBp cfg => Sys2Proof.Machine.execDrvSetBp cfg s
  | .crc32 data => Sys2Proof.Machine.execCrc32 data s
  | .recEncode r => Sys2Proof.Machine.execRecEncode r s
  | .recDecode b => Sys2Proof.Machine.execRecDecode b s
  | .hdrValidate h => Sys2Proof.Machine.execHdrValidate h s
  | .hdrEncode crc seqno => Sys2Proof.Machine.execHdrEncode crc seqno s
  | .storeWrite r => Sys2Proof.Machine.execStoreWrite r s
  | .storeRead => Sys2Proof.Machine.execStoreRead s

end Sys2Proof.Machine
end

