-- ==== Sys2Proof/Machine/Input.lean ====
section
/-! DEFINITION. What the step does with what is presented (30_encoding.md R90, R92; 70_reset_and_hazards.md R260;
60_exceptions.md R241), and how an instruction of the opcode table is presented. -/

namespace Sys2Proof.Machine

/-- A code that decodes to no instruction. A host request is answered ILLEGAL_OP with no other effect (R92, R93, R95),
and has no move while an operation is in progress (R71). A frame the block never sends is refused (R87). -/
def rejected (c : Code) (s : State) : Host.Outcome State Fault Refusal :=
  match c with
  | .request _ =>
    match s.seq with
    | .busy _ _ => .refused .requestWhileBusy
    | .idle => .next s.illegalOp
  | .frame _ => .refused .notSentByBlock

/-- A code is decoded and run. -/
def runCode (c : Code) (s : State) : Host.Outcome State Fault Refusal :=
  match decode c with
  | .ok i => exec i s
  | .error _ => rejected c s

/-- What is presented is taken. -/
def runInput (x : Input) (s : State) : Host.Outcome State Fault Refusal :=
  match x with
  | .code c => runCode c s
  | .blockReset => .next s.blockReset
  | .powerLoss => .next s.powerLoss
  | .arm m => .next { s with mishap := some m }

/-- The next thing presented is taken; with nothing presented the block waits (R260; log 25). -/
def takeInput (s : State) : Host.Outcome State Fault Refusal :=
  match s.inputs with
  | [] => .next s
  | x :: rest => runInput x { s with inputs := rest }

/-- A row of the opcode table presented as the next and only input (log 11, log 13). -/
def State.presentWord (s : State) (nbits w : Nat) : State :=
  { s with inputs := [.code (if nbits = 8 then tableCode w else .frame [])] }

end Sys2Proof.Machine
end

