-- ==== Sys2Proof/Machine/Step.lean ====
section
/-! DEFINITION. One step of the machine: what is presented next is taken. -/

namespace Sys2Proof.Machine

/-- One step: the next request, frame or event presented (30_encoding.md R90; log 11). -/
def step (s : State) : Host.Outcome State Fault Refusal := takeInput s

/-- The state with the instruction of a table word presented, so that the next step runs it (log 11, log 13). -/
def State.withFetchWord (s : State) (nbits w : Nat) : State := s.presentWord nbits w

end Sys2Proof.Machine
end

