-- ==== Sys2Proof/Safety.lean ====
section
/-! DEFINITION. What counts as a good state and a safe run, in the terms the statements use. -/

namespace Sys2Proof

/-- The operands have the kind that 30_encoding.md R91 gives the operation; their length and reserved bits are not looked
at (R95). -/
def HostOp.takes : HostOp → Operands → Bool
  | .drvRead, .addrLen _ _ | .drvWrite, .addrData _ _ | .hdrEncode, .crcSeq _ _ => true
  | .drvWrsr, .byte _ | .drvSetBp, .byte _ => true
  | .crc32, .bytes _ | .recDecode, .bytes _ | .hdrValidate, .bytes _ => true
  | .recEncode, .bureau _ | .storeWrite, .bureau _ => true
  | .drvRdsr, .none | .drvWren, .none | .drvWrdi, .none | .drvSleep, .none | .drvWake, .none | .storeRead, .none => true
  | _, _ => false

end Sys2Proof

namespace Sys2Proof.Machine

/-- A request is accepted (10_state.md R28) and no mishap of the environment is armed (the fairness assumption of D19). -/
abbrev State.ready (s : State) : Prop := s.seq = .idle ∧ s.mishap = none

/-- The store's writes land (43_store.md R201 under 70_reset_and_hazards.md R276, R277): the device is there, awake and not
wholly protected. -/
abbrev Device.slotsWritable (d : Device) : Prop := d.answers = true ∧ bp d.sr ≠ 0b11#2

/-- Registers of a fixed width hold that many bytes (10_state.md R26). -/
abbrev WorkRegs.sized (r : WorkRegs) : Prop :=
  (∀ l ∈ r.pay, l.length = Config.payloadSize) ∧
  (∀ l ∈ r.hbufA, l.length = Config.headerSize) ∧
  (∀ l ∈ r.hbufB, l.length = Config.headerSize)

/-- The data of a response is empty when its result is not OK (10_state.md R29). -/
abbrev Response.lawful (r : Response) : Prop := r.result ≠ ResultCode.ok.code → r.data = .empty

/-- The invariant of the machine: the array's canonical form and bounds (R38, R50), chip-select released while Idle
(R22), HOLD never driven (R24), registers of their width (R26), lawful responses (R29), and only a sleeping device
waking (R121). -/
structure Invariant (s : State) : Prop where
  arrayWf : Memory.wf s.dev.array
  arrayBounded : Memory.bounded s.dev.array
  csReleased : s.seq = .idle → s.cs = false
  holdReleased : s.hold = false
  regsSized : s.regs.sized
  responseLawful : ∀ r ∈ s.response, r.lawful
  wakingAsleep : s.dev.waking = true → s.dev.asleep = true

/-- A host operation (30_encoding.md R91), as against a serial command frame. -/
def isHostOp : Instr → Bool
  | .wrsr _ | .write _ _ | .read _ _ | .wrdi | .rdsr | .wren | .wake | .sleep => false
  | .drvRead _ _ | .drvWrite _ _ | .drvRdsr | .drvWrsr _ | .drvWren | .drvWrdi | .drvSleep | .drvWake | .drvSetBp _
  | .crc32 _ | .recEncode _ | .recDecode _ | .hdrValidate _ | .hdrEncode _ _ | .storeWrite _ | .storeRead => true

/-- The n bytes a READ of the device at address `a` captures: the array's, or any values from a sleeping or absent device,
whose four command bytes have used the oracle first (30_encoding.md R85; 70_reset_and_hazards.md R276; log 35). -/
def Device.seenBytes (d : Device) (draws a n : Nat) : List Byte :=
  if d.answers then d.bytesAt a n else oracleBytes (draws + 4) n

/-- The status byte RDSR captures: SR, or any value from a sleeping or absent device (40_driver.md R115; R276). -/
def Device.seenStatus (d : Device) (draws : Nat) : Byte := if d.answers then d.sr else Config.oracleByte (draws + 1)

/-- SR after WREN and then WRITE of a device: one that answers has WEL set and, with `WEL_AUTO_CLEAR`, cleared again; a
sleeping one keeps it (10_state.md R33; D20). -/
def Device.srAfterWrite (d : Device) : Byte :=
  if d.answers then (if d.params.welAutoClear then d.sr &&& 0xFD#8 else d.sr ||| 0x02#8) else d.sr

/-- SR after WREN and then WRSR `v`, with the write-protect line at `wp`: a device that answers takes the writable bits
of `v` unless SRWD is set and it sees WP asserted (10_state.md R33, R35; D20). -/
def Device.srAfterWrsr (d : Device) (wp : Bool) (v : Byte) : Byte :=
  let latched := d.sr ||| 0x02#8
  let m := d.params.srWritableMask
  let stored := if srwd d.sr && (wp && d.params.wpWired) then latched else (latched &&& ~~~m) ||| (v &&& m)
  if d.answers then (if d.params.welAutoClear then stored &&& 0xFD#8 else stored) else d.sr

/-- Address `a` is one of the `n` from `base` and a WRITE there lands: the device is there, awake, and does not
protect `a`. -/
def Device.landsAt (d : Device) (base n a : Nat) : Bool :=
  d.answers && decide (base ≤ a) && decide (a < base + n) && !isProtected d.sr a

/-- A step of the machine that does not end in a fault. -/
def StepSafe (s : State) : Prop := ∀ f, step s ≠ .fault f

/-- STORE_WRITE of each record in turn (43_store.md R212). -/
def storeWrites : List Bureau → State → Host.Outcome State Fault Refusal
  | [], s => .next s
  | r :: rs, s =>
    match exec (.storeWrite r) s with
    | .next t => storeWrites rs t
    | .fault f => .fault f
    | .refused q => .refused q

/-- How many bytes the first frame that an instruction sends has (30_encoding.md R83; the pseudocode of each operation in
40_driver.md and 43_store.md); none where it sends no frame: an internal operation, operands that are not well formed,
a range that ends outside the array. -/
def firstFrame (i : Instr) : Option Nat :=
  match i with
  | .wrdi | .wren | .wake | .sleep | .drvWrsr _ | .drvWren | .drvWrdi | .drvSleep | .drvWake => some 1
  | .wrsr _ | .rdsr | .drvRdsr => some 2
  | .drvSetBp cfg => if cfg &&& 0xF8#8 = 0#8 then some 2 else none
  | .write addr data => if addr.toNat + data.length ≤ 0x80000 then some (4 + data.length) else none
  | .read addr n => if addr.toNat + n ≤ 0x80000 then some (4 + n) else none
  | .drvRead addr n => if addr.toNat + n.toNat ≤ 0x80000 then some (4 + n.toNat) else none
  | .drvWrite addr data => if addr.toNat + data.length ≤ 0x80000 then some 1 else none
  | .storeWrite _ | .storeRead => some 28
  | .crc32 _ | .recEncode _ | .recDecode _ | .hdrValidate _ | .hdrEncode _ _ => none

/-- The slot that write k targets, starting from an empty store (43_store.md R212). -/
def slotOfWrite (k : Nat) : Slot := if k % 2 = 1 then .A else .B

/-- The byte list with bit `i % 8` of byte `i / 8` flipped (42_crc32.md R175). -/
def flipBit (l : List Byte) (i : Nat) : List Byte := l.modify (i / 8) (fun b => b ^^^ (1#8 <<< (i % 8)))

end Sys2Proof.Machine
end

