-- ==== Sys2Proof/Certificates/Slice0/Obligations.lean ====
section
/-! DEFINITION. The statements for the provers, from the numbered rules of spec/. Clauses about the fields that are the
model's own rest on the log, not on a rule: `draws` and the oracle (log 7), `waking` (log 8), `inputs` (log 11),
`mishap` (log 14), `trace` (log 19), and the device's parameters (log 5). Where a device answers, it is the reference
device of 92_eei_decisions.md D20 (log 4); a device that is not on the bus (40_driver.md R115) is log 35. -/

open Sys2Proof Sys2Proof.Machine

/-! ## Encoding -/

/-- A few words written out from the encodings of 30_encoding.md R82, R83, R91 decode to what they stand for. -/
def Obligations.SpecWordsDecode : Prop :=
  decode (.frame [0x01#8, 0x8A#8]) = .ok (.wrsr 0x8A#8) ∧
  decode (.frame [0x02#8, 0x00#8, 0x01#8, 0x00#8, 0xAA#8, 0x55#8]) = .ok (.write 0x100#24 [0xAA#8, 0x55#8]) ∧
  decode (.frame [0x03#8, 0x00#8, 0x01#8, 0x18#8, 0x00#8, 0x00#8]) = .ok (.read 0x118#24 2) ∧
  decode (.frame [0xAB#8]) = .ok .wake ∧
  decode (.frame [0xB9#8]) = .ok .sleep ∧
  decode (.request { op := 0x01#8, operands := .addrLen 0x18#32 4#32 }) = .ok (.drvRead 0x18#32 4#32) ∧
  decode (.request { op := 0x09#8, operands := .byte 0x06#8 }) = .ok (.drvSetBp 0x06#8) ∧
  decode (.request { op := 0x21#8, operands := .none }) = .ok .storeRead

/-- Decoding the encoding of a well-formed instruction gives it back, with every operand at every value. -/
def Obligations.EncodeThenDecodeIsIdentity : Prop :=
  ∀ i : Instr, i.wellFormed = true → decode (encode i) = .ok i

/-- Each code has one meaning: what decodes is the encoding of a well-formed instruction. -/
def Obligations.DecodedCodesAreEncodings : Prop :=
  ∀ (c : Code) (i : Instr), decode c = .ok i → encode i = c ∧ i.wellFormed = true

/-- 30_encoding.md R82: the opcode byte that each frame begins with, and no frame begins with another. -/
def Obligations.FramesBeginWithTheEightOpcodes : Prop :=
  (∀ v, (Frame.wrsr v).bytes.head? = some 0x01#8) ∧
  (∀ a d, (Frame.write a d).bytes.head? = some 0x02#8) ∧
  (∀ a n, (Frame.read a n).bytes.head? = some 0x03#8) ∧
  Frame.wrdi.bytes.head? = some 0x04#8 ∧
  Frame.rdsr.bytes.head? = some 0x05#8 ∧
  Frame.wren.bytes.head? = some 0x06#8 ∧
  Frame.wake.bytes.head? = some 0xAB#8 ∧
  Frame.sleep.bytes.head? = some 0xB9#8

/-- 30_encoding.md R92: a request with an unassigned operation code is answered ILLEGAL_OP and nothing else changes. -/
def Obligations.UnassignedOpCodesAnswerIllegalOp : Prop :=
  ∀ (s : State) (r : Request) (rest : List Input),
    s.seq = .idle →
    r.op ∉ [0x01#8, 0x02#8, 0x03#8, 0x04#8, 0x05#8, 0x06#8, 0x07#8, 0x08#8, 0x09#8, 0x10#8, 0x11#8, 0x12#8, 0x13#8,
      0x14#8, 0x20#8, 0x21#8] →
    step { s with inputs := .code (.request r) :: rest } =
      .next { s with inputs := rest, response := some { result := 0xFF#8, data := .empty } }

/-- 30_encoding.md R93, R95: reserved cfg bits, operands of the wrong kind and operands of the wrong length are answered
ILLEGAL_OP and nothing else changes, whether they stand in a request or in an instruction that is not well formed. -/
def Obligations.WrongOperandsAnswerIllegalOp : Prop :=
  ∀ (s : State) (rest : List Input), s.seq = .idle →
    (∀ (op : HostOp) (operands : Operands), op.takes operands = false →
      step { s with inputs := .code (.request { op := op.code, operands := operands }) :: rest } =
        .next { s with inputs := rest, response := some { result := 0xFF#8, data := .empty } }) ∧
    (∀ cfg : Byte, cfg &&& 0xF8#8 ≠ 0#8 →
      step { s with inputs := .code (.request { op := 0x09#8, operands := .byte cfg }) :: rest } =
        .next { s with inputs := rest, response := some { result := 0xFF#8, data := .empty } } ∧
      exec (.drvSetBp cfg) s = .next { s with response := some { result := 0xFF#8, data := .empty } }) ∧
    (∀ b : List Byte, b.length ≠ 20 →
      step { s with inputs := .code (.request { op := 0x12#8, operands := .bytes b }) :: rest } =
        .next { s with inputs := rest, response := some { result := 0xFF#8, data := .empty } } ∧
      exec (.recDecode b) s = .next { s with response := some { result := 0xFF#8, data := .empty } }) ∧
    (∀ h : List Byte, h.length ≠ 24 →
      step { s with inputs := .code (.request { op := 0x13#8, operands := .bytes h }) :: rest } =
        .next { s with inputs := rest, response := some { result := 0xFF#8, data := .empty } } ∧
      exec (.hdrValidate h) s = .next { s with response := some { result := 0xFF#8, data := .empty } }) ∧
    (∀ (addr : Word) (l : List Byte), 2 ^ 32 ≤ l.length →
      step { s with inputs := .code (.request { op := 0x02#8, operands := .addrData addr l }) :: rest } =
        .next { s with inputs := rest, response := some { result := 0xFF#8, data := .empty } } ∧
      exec (.drvWrite addr l) s = .next { s with response := some { result := 0xFF#8, data := .empty } } ∧
      step { s with inputs := .code (.request { op := 0x10#8, operands := .bytes l }) :: rest } =
        .next { s with inputs := rest, response := some { result := 0xFF#8, data := .empty } } ∧
      exec (.crc32 l) s = .next { s with response := some { result := 0xFF#8, data := .empty } })

/-! ## The step, reset, and what holds of every state -/

/-- A code presented next that decodes is taken, and the step is the meaning of its instruction. That a step takes the
next entry of `inputs` is the model's choice (log 11). -/
def Obligations.StepRunsTheDecodedInstruction : Prop :=
  ∀ (s : State) (c : Code) (i : Instr) (rest : List Input),
    s.inputs = .code c :: rest → decode c = .ok i → step s = exec i { s with inputs := rest }

/-- 70_reset_and_hazards.md R260: what reset leaves; it sends nothing. That the block can be reset in any state, Busy too,
and that such a reset leaves the device, the mishap, the oracle count and the trace as they are, is the model's choice
(log 31). -/
def Obligations.ResetLeavesTheBlockIdle : Prop :=
  (State.reset.cs = false ∧ State.reset.wp = false ∧ State.reset.hold = false ∧ State.reset.seq = .idle ∧
    State.reset.regs = WorkRegs.empty ∧ State.reset.response = none ∧ State.reset.trace = []) ∧
  ∀ (s : State) (rest : List Input),
    step { s with inputs := .blockReset :: rest } =
      .next { s with
        inputs := rest, cs := false, wp := false, hold := false, seq := .idle, regs := WorkRegs.empty, response := none }

/-- The invariant holds right after reset. -/
def Obligations.ResetKeepsTheInvariant : Prop := Invariant State.reset

/-- Every step keeps the invariant. -/
def Obligations.StepKeepsTheInvariant : Prop :=
  ∀ s t : State, Invariant s → step s = .next t → Invariant t

/-- 10_state.md R26: no operation reads a working register that it has not written; no step ends in any fault. -/
def Obligations.NoUnwrittenRegisterIsRead : Prop :=
  (∀ (i : Instr) (s : State) (r : WorkReg), exec i s ≠ .fault (.unwrittenRegister r)) ∧ ∀ s : State, StepSafe s

/-- 10_state.md R27: what an earlier operation left in the registers, the response or on chip-select makes no
difference to a well-formed host operation, with no mishap armed. -/
def Obligations.OperationsForgetEarlierOnes : Prop :=
  ∀ (i : Instr) (s : State) (regs : WorkRegs) (response : Option Response) (cs : Bool),
    s.ready → isHostOp i = true → i.wellFormed = true →
    exec i { s with regs := regs, response := response, cs := cs } = exec i s

/-- 10_state.md R28, 20_memory.md R71: while the sequencer is Busy no operation has a move. That this holds of the serial
frames too is the model's choice (log 29). -/
def Obligations.BusyRefusesEveryOperation : Prop :=
  ∀ (i : Instr) (s : State) (op : Instr) (k : Nat), s.seq = .busy op k → exec i s = .refused .requestWhileBusy

/-- 10_state.md R22, R28, R29; 30_encoding.md R90: every request presented in Idle, with the bus making progress, is
answered: the sequencer is Idle again and there is a response. -/
def Obligations.EveryRequestIsAnswered : Prop :=
  ∀ (s : State) (r : Request) (rest : List Input), s.ready → s.cs = false → s.inputs = .code (.request r) :: rest →
    ∃ t, step s = .next t ∧ t.seq = .idle ∧ t.cs = false ∧ t.response ≠ none ∧ t.inputs = rest

/-- 60_exceptions.md R231, R240: which result codes an operation can answer, with the bus making progress. FORMAT and
OVERFLOW are never answered. -/
def Obligations.ResultCodesByOperation : Prop :=
  ∀ (i : Instr) (s t : State) (p : Response),
    s.ready → isHostOp i = true → exec i s = .next t → t.response = some p →
    p.result = 0x00#8 ∨
    (p.result = 0xFF#8 ∧ i.wellFormed = false) ∨
    (p.result = 0x01#8 ∧ ((∃ a n, i = .drvRead a n) ∨ ∃ a l, i = .drvWrite a l)) ∨
    ((p.result = 0x03#8 ∨ p.result = 0x04#8) ∧ i = .storeRead)

/-- 60_exceptions.md R237: an operation that answers an error leaves the device and the WP line as they were. -/
def Obligations.ErrorsLeaveTheDeviceAlone : Prop :=
  ∀ (i : Instr) (s t : State) (p : Response),
    s.ready → isHostOp i = true → exec i s = .next t → t.response = some p → p.result ≠ 0x00#8 →
    t.dev = s.dev ∧ t.wp = s.wp ∧ t.hold = s.hold ∧ t.cs = (s.cs && p.result == 0xFF#8) ∧ t.seq = .idle ∧ p.data = .empty

/-- 10_state.md R23, R24: only a locking DRV_SET_BP raises WP, nothing lowers it, and no operation drives HOLD. -/
def Obligations.OnlyLockingRaisesWp : Prop :=
  ∀ (i : Instr) (s t : State), s.ready → exec i s = .next t →
    t.hold = s.hold ∧
    ((∃ cfg, i = .drvSetBp cfg ∧ i.wellFormed = true ∧ t.wp = (s.wp || cfg.getLsbD 2)) ∨
      ((∀ cfg, i = .drvSetBp cfg → i.wellFormed = false) ∧ t.wp = s.wp))

/-- 20_memory.md R50, R64; 10_state.md R39: what each instruction leaves alone in the device. The array changes by the
write instructions only, the status register by the latch, write and status instructions only, the sleep state by
SLEEP and WAKE only, the parameters by none; and what leaves the array alone leaves the state of both slots alone
(43_store.md R211). -/
def Obligations.DeviceChangesByInstruction : Prop :=
  ∀ (i : Instr) (s t : State), s.ready → exec i s = .next t →
    t.dev.params = s.dev.params ∧
    ((∀ a l, i ≠ .write a l) → (∀ a l, i ≠ .drvWrite a l) → (∀ r, i ≠ .storeWrite r) →
      t.dev.array = s.dev.array ∧ ∀ x, t.slotState x = s.slotState x) ∧
    ((∀ v, i ≠ .wrsr v) → (∀ a l, i ≠ .write a l) → i ≠ .wrdi → i ≠ .wren → (∀ a l, i ≠ .drvWrite a l) →
      (∀ v, i ≠ .drvWrsr v) → i ≠ .drvWren → i ≠ .drvWrdi → (∀ c, i ≠ .drvSetBp c) → (∀ r, i ≠ .storeWrite r) →
      t.dev.sr = s.dev.sr) ∧
    (i ≠ .sleep → i ≠ .wake → i ≠ .drvSleep → i ≠ .drvWake →
      t.dev.asleep = s.dev.asleep ∧ t.dev.waking = s.dev.waking)

/-- 10_state.md R35: with SRWD set and WP asserted on a bus that has the line, no instruction changes any status bit
but WEL, and WP stays asserted. -/
def Obligations.LockedStatusStaysLocked : Prop :=
  ∀ (i : Instr) (s t : State), s.ready → s.wp = true → s.dev.params.wpWired = true → srwd s.dev.sr = true →
    exec i s = .next t →
    t.wp = true ∧ t.dev.params.wpWired = true ∧ t.dev.sr &&& 0xFD#8 = s.dev.sr &&& 0xFD#8

/-! ## Serial command frames -/

/-- 30_encoding.md R83 format C: WREN, WRDI, SLEEP and WAKE are one byte in one bracket, and set WEL, clear WEL, put an
awake device to sleep, start waking a sleeping one. A sleeping device takes WAKE only (D20(i)), an absent one takes
nothing (log 35). Running a frame as an
instruction of its own is the model's choice (log 12), and so is `waking` (log 8). -/
def Obligations.CommandOnlyFramesComplete : Prop :=
  ∀ s : State, s.ready →
    exec .wren s =
      .next { s with
        cs := false, regs := WorkRegs.empty, draws := s.draws + 1, trace := s.trace ++ [.txn [0x06#8] []]
        dev := { s.dev with sr := if s.dev.answers then s.dev.sr ||| 0x02#8 else s.dev.sr } } ∧
    exec .wrdi s =
      .next { s with
        cs := false, regs := WorkRegs.empty, draws := s.draws + 1, trace := s.trace ++ [.txn [0x04#8] []]
        dev := { s.dev with sr := if s.dev.answers then s.dev.sr &&& 0xFD#8 else s.dev.sr } } ∧
    exec .sleep s =
      .next { s with
        cs := false, regs := WorkRegs.empty, draws := s.draws + 1, trace := s.trace ++ [.txn [0xB9#8] []]
        dev := if s.dev.answers then { s.dev with asleep := true, waking := false } else s.dev } ∧
    exec .wake s =
      .next { s with
        cs := false, regs := WorkRegs.empty, draws := s.draws + 1, trace := s.trace ++ [.txn [0xAB#8] []]
        dev := if s.dev.params.present then { s.dev with waking := s.dev.asleep || s.dev.waking } else s.dev }

/-- 30_encoding.md R83 formats CR and CW: RDSR captures the status byte, or whatever the line carries where the device
sleeps or is absent (log 35); WRSR sends one, with WEL as it stands. Frames as instructions are the model's choice (log
12), and so are what an ignored WRSR does to WEL (log 6) and that the mask's bits are written before WEL is cleared
(log 27). -/
def Obligations.StatusFramesComplete : Prop :=
  ∀ (s : State) (v : Byte), s.ready →
    exec .rdsr s =
      .next { s with
        cs := false, regs := { WorkRegs.empty with rx := some [s.dev.seenStatus s.draws] }, draws := s.draws + 2
        trace := s.trace ++ [.txn [0x05#8, 0x00#8] [s.dev.seenStatus s.draws]] } ∧
    ∃ sr : Byte,
      exec (.wrsr v) s =
        .next { s with
          cs := false, regs := WorkRegs.empty, draws := s.draws + 2, trace := s.trace ++ [.txn [0x01#8, v] []]
          dev := { s.dev with sr := sr } } ∧
      (s.dev.answers = false → sr = s.dev.sr) ∧
      (s.dev.answers = true → wel s.dev.sr = false → sr = s.dev.sr) ∧
      (s.dev.answers = true → wel s.dev.sr = true → sr = s.dev.srAfterWrsr s.wp v)

/-- 30_encoding.md R83 formats CAR and CAW, R84, R85: READ captures the bytes from its address upward, WRITE stores
its data there with WEL as it stands, and changes no other byte. A sleeping or absent device stores nothing and gives
whatever the line carries (log 35). Frames as instructions are the model's choice (log 12),
and so is what an ignored WRITE does to WEL (log 6). -/
def Obligations.DataFramesComplete : Prop :=
  ∀ (s : State) (addr : BusAddr) (n : Nat) (data : List Byte), s.ready →
    (addr.toNat + n ≤ 0x80000 →
      exec (.read addr n) s =
        .next { s with
          cs := false, regs := { WorkRegs.empty with rx := some (s.dev.seenBytes s.draws addr.toNat n) }
          draws := s.draws + (4 + n)
          trace := s.trace ++ [.txn (0x03#8 :: (be3 addr ++ zeros n)) (s.dev.seenBytes s.draws addr.toNat n)] }) ∧
    (addr.toNat + data.length ≤ 0x80000 →
      ∃ (arr : Memory) (sr : Byte),
        exec (.write addr data) s =
          .next { s with
            cs := false, regs := WorkRegs.empty, draws := s.draws + (4 + data.length)
            trace := s.trace ++ [.txn (0x02#8 :: (be3 addr ++ data)) []]
            dev := { s.dev with array := arr, sr := sr } } ∧
        (sr = if s.dev.answers = true ∧ s.dev.params.welAutoClear = true then s.dev.sr &&& 0xFD#8 else s.dev.sr) ∧
        ∀ a, Memory.read arr a =
          if s.dev.landsAt addr.toNat data.length a = true ∧ wel s.dev.sr = true then data.getD (a - addr.toNat) 0#8
          else Memory.read s.dev.array a)

/-- 20_memory.md R51: a READ or WRITE frame that would move a byte outside the array is never sent by the block; that such
an instruction stops with a fault is the model's choice (log 20). -/
def Obligations.FramesOutsideTheArrayStop : Prop :=
  ∀ (s : State) (addr : BusAddr) (n : Nat) (data : List Byte), s.seq = .idle →
    (0x80000 < addr.toNat + n → exec (.read addr n) s = .fault .noSuchAddress) ∧
    (0x80000 < addr.toNat + data.length → exec (.write addr data) s = .fault .noSuchAddress)

/-! ## The chip driver -/

/-- 40_driver.md R110: the range check is exact, and a read or write that fails it answers RANGE with no bus action. -/
def Obligations.OutOfRangeAccessesTouchNoBus : Prop :=
  (∀ (addr : Word) (n : Nat), rangeOk addr n = true ↔ addr.toNat + n ≤ 0x80000) ∧
  ∀ (s : State) (addr n : Word) (data : List Byte), s.seq = .idle →
    (0x80000 < addr.toNat + n.toNat →
      exec (.drvRead addr n) s =
        .next { s with
          cs := false, regs := WorkRegs.empty, response := some { result := 0x01#8, data := .empty } }) ∧
    (data.length < 2 ^ 32 → 0x80000 < addr.toNat + data.length →
      exec (.drvWrite addr data) s =
        .next { s with
          cs := false, regs := WorkRegs.empty, response := some { result := 0x01#8, data := .empty } })

/-- 40_driver.md R111: DRV_READ is one READ transaction and answers the bytes captured: those of the array, or whatever
the line carries where the device sleeps or is absent (log 35). -/
def Obligations.DrvReadAnswersTheBytes : Prop :=
  ∀ (s : State) (addr n : Word), s.ready → addr.toNat + n.toNat ≤ 0x80000 →
    exec (.drvRead addr n) s =
      .next { s with
        cs := false
        regs := { WorkRegs.empty with rx := some (s.dev.seenBytes s.draws addr.toNat n.toNat) }
        response := some { result := 0x00#8, data := .bytes (s.dev.seenBytes s.draws addr.toNat n.toNat) }
        draws := s.draws + (4 + n.toNat)
        trace := s.trace ++
          [.txn (0x03#8 :: (be3 (addr.setWidth 24) ++ zeros n.toNat)) (s.dev.seenBytes s.draws addr.toNat n.toNat)] }

/-- 40_driver.md R112, R113: DRV_WRITE is WREN and then one WRITE; the bytes land where the device is there, is awake and
does not protect, and no other byte changes. What WEL is after a write that did not land is the model's choice (log 6). -/
def Obligations.DrvWriteStoresTheBytes : Prop :=
  ∀ (s : State) (addr : Word) (data : List Byte), s.ready → data.length < 2 ^ 32 →
    addr.toNat + data.length ≤ 0x80000 →
    ∃ arr : Memory,
      exec (.drvWrite addr data) s =
        .next { s with
          cs := false, regs := WorkRegs.empty, response := some { result := 0x00#8, data := .empty }
          draws := s.draws + (1 + (4 + data.length))
          trace := s.trace ++ [.txn [0x06#8] [], .txn (0x02#8 :: (be3 (addr.setWidth 24) ++ data)) []]
          dev := { s.dev with array := arr, sr := s.dev.srAfterWrite } } ∧
      ∀ a, Memory.read arr a =
        if s.dev.landsAt addr.toNat data.length a = true then data.getD (a - addr.toNat) 0#8
        else Memory.read s.dev.array a

/-- 40_driver.md R115, R116: DRV_RDSR answers the byte clocked in, every bit as it came: SR, or whatever the line
carries where the device sleeps or is absent. -/
def Obligations.DrvRdsrAnswersTheStatus : Prop :=
  ∀ s : State, s.ready →
    exec .drvRdsr s =
      .next { s with
        cs := false, regs := { WorkRegs.empty with rx := some [s.dev.seenStatus s.draws] }
        response := some { result := 0x00#8, data := .status (s.dev.seenStatus s.draws) }
        draws := s.draws + 2
        trace := s.trace ++ [.txn [0x05#8, 0x00#8] [s.dev.seenStatus s.draws]] }

/-- 40_driver.md R117: DRV_WRSR is WREN and then WRSR with the value unchanged. What SR then is, is the device of D20
(log 4): WEL after an ignored WRSR is the model's choice (log 6), and so is that the mask's bits are written before WEL is
cleared (log 27). -/
def Obligations.DrvWrsrWritesTheStatus : Prop :=
  ∀ (s : State) (v : Byte), s.ready →
    exec (.drvWrsr v) s =
      .next { s with
        cs := false, regs := WorkRegs.empty, response := some { result := 0x00#8, data := .empty }
        draws := s.draws + 3
        trace := s.trace ++ [.txn [0x06#8] [], .txn [0x01#8, v] []]
        dev := { s.dev with sr := s.dev.srAfterWrsr s.wp v } }

/-- 40_driver.md R118, R119: DRV_WREN sends WREN and sets WEL; DRV_WRDI sends WRDI and clears it. That a sleeping device
takes neither is D20(i) (log 4), that an absent one does not is log 35. -/
def Obligations.DrvLatchOpsComplete : Prop :=
  ∀ s : State, s.ready →
    exec .drvWren s =
      .next { s with
        cs := false, regs := WorkRegs.empty, response := some { result := 0x00#8, data := .empty }
        draws := s.draws + 1, trace := s.trace ++ [.txn [0x06#8] []]
        dev := { s.dev with sr := if s.dev.answers then s.dev.sr ||| 0x02#8 else s.dev.sr } } ∧
    exec .drvWrdi s =
      .next { s with
        cs := false, regs := WorkRegs.empty, response := some { result := 0x00#8, data := .empty }
        draws := s.draws + 1, trace := s.trace ++ [.txn [0x04#8] []]
        dev := { s.dev with sr := if s.dev.answers then s.dev.sr &&& 0xFD#8 else s.dev.sr } }

/-- 40_driver.md R120, R121: DRV_SLEEP and DRV_WAKE send their command and then wait with chip-select released; after
them the device sleeps, or is awake, if there is one (log 35). `waking` is the model's (log 8), and so is that the one wait of 400 µs wakes the device
and the 3 µs do not (log 34). -/
def Obligations.DrvPowerOpsComplete : Prop :=
  ∀ s : State, s.ready →
    exec .drvSleep s =
      .next { s with
        cs := false, regs := WorkRegs.empty, response := some { result := 0x00#8, data := .empty }
        draws := s.draws + 1, trace := s.trace ++ [.txn [0xB9#8] [], .delay 3]
        dev := if s.dev.answers then { s.dev with asleep := true, waking := false } else s.dev } ∧
    exec .drvWake s =
      .next { s with
        cs := false, regs := WorkRegs.empty, response := some { result := 0x00#8, data := .empty }
        draws := s.draws + 1, trace := s.trace ++ [.txn [0xAB#8] [], .delay 400]
        dev := if s.dev.params.present then { s.dev with asleep := false, waking := false } else s.dev }

/-- 40_driver.md R115 (the absent device; 92_eei_decisions.md D20(i)): with no device on the bus no step, mishaps and power
loss among them, changes the device, and what DRV_RDSR and DRV_READ answer is a free value at every byte, whatever the line
carries, also after a DRV_WAKE, which wakes nothing. That an absent device takes no command and answers none is the
model's reading of R115 (log 35), the oracle of free values log 7. -/
def Obligations.AbsentDeviceIsNeverHeard : Prop :=
  (∀ s t : State, s.dev.params.present = false → step s = .next t → t.dev = s.dev) ∧
  ∀ s : State, s.ready → s.dev.params.present = false →
    (∃ t u : State, exec .drvWake s = .next t ∧ exec .drvRdsr t = .next u ∧
      u.response = some { result := 0x00#8, data := .status (Config.oracleByte (s.draws + 2)) }) ∧
    ∀ addr n : Word, addr.toNat + n.toNat ≤ 0x80000 →
      ∃ t : State, exec (.drvRead addr n) s = .next t ∧
        t.response = some { result := 0x00#8, data := .bytes (oracleBytes (s.draws + 4) n.toNat) }

/-- 40_driver.md R123 to R126: DRV_SET_BP reads SR, computes the new status, asserts WP when locking, and writes
it. What SR then is, is the device of D20 (log 4), with WEL after an ignored WRSR (log 6) and the order of mask and WEL
(log 27) the model's choices. -/
def Obligations.DrvSetBpRewritesProtection : Prop :=
  ∀ (s : State) (cfg : Byte), s.ready → cfg &&& 0xF8#8 = 0#8 →
    let sr := s.dev.seenStatus s.draws
    let v := (sr &&& 0xF3#8) ||| ((cfg &&& 0x03#8) <<< 2) ||| (if cfg.getLsbD 2 then 0x80#8 else 0x00#8)
    exec (.drvSetBp cfg) s =
      .next { s with
        cs := false, wp := s.wp || cfg.getLsbD 2
        regs := { WorkRegs.empty with rx := some [sr], srTmp := some v }
        response := some { result := 0x00#8, data := .empty }
        draws := s.draws + 5
        trace := s.trace ++ [.txn [0x05#8, 0x00#8] [sr]] ++ (if cfg.getLsbD 2 then [.setWp true] else []) ++
          [.txn [0x06#8] [], .txn [0x01#8, v] []]
        dev := { s.dev with sr := s.dev.srAfterWrsr (s.wp || cfg.getLsbD 2) v } }

/-! ## The record codec, the headers and the CRC -/

/-- 41_codec.md R157: the round-trip laws of the codec. -/
def Obligations.RecordCodecRoundTrip : Prop :=
  (∀ x : Bureau, decodeRecord (encodeRecord x) = x) ∧
  (∀ b : List Byte, b.length = 20 →
    encodeRecord (decodeRecord b) = slice b 0 13 ++ [0#8, 0#8, 0#8] ++ slice b 16 20) ∧
  ∀ x y : Bureau, encodeRecord x = encodeRecord y → x = y

/-- 41_codec.md R152, R153: REC_ENCODE answers the 20-byte payload, with no bus action. -/
def Obligations.RecEncodeAnswersThePayload : Prop :=
  ∀ (s : State) (r : Bureau), s.seq = .idle →
    let p := le8 r.progQty ++ le4 r.mathQty ++ [r.headQty] ++ [0x00#8, 0x00#8, 0x00#8] ++ le4 r.salaryBits
    p.length = 20 ∧
    exec (.recEncode r) s =
      .next { s with
        cs := false, regs := { WorkRegs.empty with pay := some p }
        response := some { result := 0x00#8, data := .bytes p } }

/-- 41_codec.md R155: REC_DECODE answers the record whose fields are the little-endian values of the bytes. -/
def Obligations.RecDecodeAnswersTheRecord : Prop :=
  ∀ (s : State) (b : List Byte), s.seq = .idle → b.length = 20 →
    ∃ r : Bureau,
      exec (.recDecode b) s =
        .next { s with
          cs := false, regs := WorkRegs.empty, response := some { result := 0x00#8, data := .bureau r } } ∧
      r.progQty.toNat = fromLe (slice b 0 8) ∧ r.mathQty.toNat = fromLe (slice b 8 12) ∧
      r.headQty = b.getD 12 0#8 ∧ r.salaryBits.toNat = fromLe (slice b 16 20)

/-- 43_store.md R186: a 24-byte header is valid exactly when magic, version and length match. -/
def Obligations.ValidationChecksThreeFields : Prop :=
  ∀ h : List Byte, h.length = 24 →
    (validate h =
      if fromLe (slice h 0 4) = 0x45525542 ∧ fromLe (slice h 4 6) = 1 ∧ fromLe (slice h 8 12) = 20
      then some (parseHeader h) else none) ∧
    (parseHeader h).magic.toNat = fromLe (slice h 0 4) ∧ (parseHeader h).version.toNat = fromLe (slice h 4 6) ∧
    (parseHeader h).reserved.toNat = fromLe (slice h 6 8) ∧ (parseHeader h).length.toNat = fromLe (slice h 8 12) ∧
    (parseHeader h).crc32.toNat = fromLe (slice h 12 16) ∧ (parseHeader h).seqno.toNat = fromLe (slice h 16 24)

/-- 43_store.md R189: a built header has 24 bytes and validates to what it was built from. -/
def Obligations.BuiltHeadersValidate : Prop :=
  ∀ (c : Word) (q : DWord),
    hdrEncode c q = le4 0x45525542#32 ++ le2 1#16 ++ le2 0#16 ++ le4 20#32 ++ le4 c ++ le8 q ∧
    (hdrEncode c q).length = 24 ∧
    validate (hdrEncode c q) =
      some { magic := 0x45525542#32, version := 1#16, reserved := 0#16, length := 20#32, crc32 := c, seqno := q }

/-- 43_store.md R188, R190: HDR_VALIDATE and HDR_ENCODE answer validation and the built header, with no bus action. -/
def Obligations.HeaderOpsComplete : Prop :=
  ∀ (s : State) (c : Word) (q : DWord) (h : List Byte), s.seq = .idle →
    (exec (.hdrEncode c q) s =
      .next { s with
        cs := false, regs := WorkRegs.empty, response := some { result := 0x00#8, data := .bytes (hdrEncode c q) } }) ∧
    (h.length = 24 → validate h = none →
      exec (.hdrValidate h) s =
        .next { s with
          cs := false, regs := WorkRegs.empty, response := some { result := 0x00#8, data := .validity 0#8 none } }) ∧
    ∀ x, h.length = 24 → validate h = some x →
      exec (.hdrValidate h) s =
        .next { s with
          cs := false, regs := WorkRegs.empty, response := some { result := 0x00#8, data := .validity 1#8 (some x) } }

/-- 42_crc32.md R174: the check value, answered by the operation CRC32. -/
def Obligations.CrcCheckValue : Prop :=
  crc32 [0x31#8, 0x32#8, 0x33#8, 0x34#8, 0x35#8, 0x36#8, 0x37#8, 0x38#8, 0x39#8] = 0xCBF43926#32

/-- 42_crc32.md R170 to R173: CRC32 answers the checksum, `CRC` holds its complement, and nothing else changes; the
empty list gives 0, and one more byte is eight reflected bit steps on the complement. -/
def Obligations.Crc32AnswersTheChecksum : Prop :=
  (∀ (s : State) (data : List Byte), s.seq = .idle → data.length < 2 ^ 32 →
    exec (.crc32 data) s =
      .next { s with
        cs := false, regs := { WorkRegs.empty with crc := some (crc32 data ^^^ 0xFFFFFFFF#32) }
        response := some { result := 0x00#8, data := .crc (crc32 data) } }) ∧
  crc32 [] = 0#32 ∧
  ∀ (l : List Byte) (b : Byte),
    crc32 (l ++ [b]) ^^^ 0xFFFFFFFF#32 =
      (fun c : Word => if c.getLsbD 0 then (c >>> 1) ^^^ 0xEDB88320#32 else c >>> 1)^[8]
        ((crc32 l ^^^ 0xFFFFFFFF#32) ^^^ b.setWidth 32)

/-- 42_crc32.md R175: the change that an error pattern makes to a checksum does not depend on the bytes it falls on. -/
def Obligations.CrcErrorDifferenceIsFixed : Prop :=
  ∀ a e : List Byte, a.length = e.length →
    crc32 (List.zipWith (· ^^^ ·) a e) ^^^ crc32 a = crc32 e ^^^ crc32 (zeros e.length)

/-- 42_crc32.md R175: every single-bit error in a payload changes its checksum. -/
def Obligations.CrcSeesEverySingleBitFlip : Prop :=
  ∀ (p : List Byte) (i : Nat), p.length = 20 → i < 160 → crc32 (flipBit p i) ≠ crc32 p

/-! ## Sequence numbers and slots -/

/-- 43_store.md R197: the next sequence number. -/
def Obligations.NextSequenceNumber : Prop :=
  (∀ a b : Header, (nextSeq (some a) (some b)).toNat = (max a.seqno.toNat b.seqno.toNat + 1) % 2 ^ 64) ∧
  (∀ a : Header, (nextSeq (some a) none).toNat = (a.seqno.toNat + 1) % 2 ^ 64) ∧
  (∀ b : Header, (nextSeq none (some b)).toNat = (b.seqno.toNat + 1) % 2 ^ 64) ∧
  (nextSeq none none).toNat = 1

/-- 43_store.md R198: the slot a write targets. -/
def Obligations.TargetSlot : Prop :=
  (∀ a b : Header, target (some a) (some b) = if a.seqno.toNat ≤ b.seqno.toNat then .A else .B) ∧
  (∀ a : Header, target (some a) none = .B) ∧
  ∀ hb : Option Header, target none hb = .A

/-- 43_store.md R204, R205: the slot a read picks, if either header is valid. -/
def Obligations.PickedSlot : Prop :=
  (∀ a b : Header, pick (some a) (some b) = if b.seqno.toNat ≤ a.seqno.toNat then some (.A, a) else some (.B, b)) ∧
  (∀ a : Header, pick (some a) none = some (.A, a)) ∧
  (∀ b : Header, pick none (some b) = some (.B, b)) ∧
  pick none none = none

/-- 43_store.md R198, R205, R213: unless two valid sequence numbers are equal, a write never targets the slot a read
picks; when they are equal both are A. A header with the next sequence number, in the target slot, is picked, unless
the sequence number has wrapped. -/
def Obligations.WritesSpareTheWinner : Prop :=
  ∀ ha hb : Option Header,
    (∀ w h, pick ha hb = some (w, h) →
      ((∀ a b, ha = some a → hb = some b → a.seqno ≠ b.seqno) → target ha hb = w.other) ∧
      (∀ a b, ha = some a → hb = some b → a.seqno = b.seqno → target ha hb = .A ∧ w = .A)) ∧
    (∀ n : Header, n.seqno = nextSeq ha hb → nextSeq ha hb ≠ 0#64 →
      pick (if target ha hb = .A then some n else ha) (if target ha hb = .B then some n else hb) =
        some (target ha hb, n))

/-! ## The store -/

/-- 43_store.md R200: STORE_WRITE's next state. It reads both headers, sends exactly six transactions, and stores the
payload and then the header in the target slot where the device takes them. WEL after a WRITE that the device ignored is
the model's choice (log 6; D20(f)), and nothing is left unfinished in the target slot (log 36). -/
def Obligations.StoreWriteSendsSixTransactions : Prop :=
  ∀ (s : State) (r : Bureau), s.ready →
    let bytesA := s.dev.seenBytes s.draws 0x000 24
    let bytesB := s.dev.seenBytes (s.draws + 28) 0x100 24
    let slot := target (validate bytesA) (validate bytesB)
    let seq := nextSeq (validate bytesA) (validate bytesB)
    let pay := encodeRecord r
    let hdr := hdrEncode (crc32 pay) seq
    ∃ arr : Memory,
      exec (.storeWrite r) s =
        .next { s with
          cs := false
          regs :=
            { crc := some (crc32 pay), pay := some pay, hbufA := some bytesA, hbufB := some bytesB
              ha := some (validate bytesA), hb := some (validate bytesB), nextSeq := some seq, target := some slot
              pick := none, srTmp := none, rx := some bytesB }
          response := some { result := 0x00#8, data := .seqno seq }
          draws := s.draws + 110
          trace := s.trace ++
            [.txn ([0x03#8, 0x00#8, 0x00#8, 0x00#8] ++ zeros 24) bytesA,
             .txn ([0x03#8, 0x00#8, 0x01#8, 0x00#8] ++ zeros 24) bytesB,
             .txn [0x06#8] [],
             .txn ([0x02#8, 0x00#8, if slot = .A then 0x00#8 else 0x01#8, 0x18#8] ++ pay) [],
             .txn [0x06#8] [],
             .txn ([0x02#8, 0x00#8, if slot = .A then 0x00#8 else 0x01#8, 0x00#8] ++ hdr) []]
          dev := { s.dev with array := arr, sr := s.dev.srAfterWrite }
          unfinishedA := if slot = .A then none else s.unfinishedA
          unfinishedB := if slot = .B then none else s.unfinishedB } ∧
      ∀ a, Memory.read arr a =
        if s.dev.landsAt (hdrOff slot) 24 a = true then hdr.getD (a - hdrOff slot) 0#8
        else if s.dev.landsAt (payOff slot) 20 a = true then pay.getD (a - payOff slot) 0#8
        else Memory.read s.dev.array a

/-- 43_store.md R201: after a STORE_WRITE that the device takes, the target slot holds the header and the payload, the
other slot is unchanged, and without a wrap the sequence number exceeds every valid one. -/
def Obligations.StoreWriteFillsTheTargetSlot : Prop :=
  ∀ (s : State) (r : Bureau), s.ready → s.dev.slotsWritable →
    let slot := target (s.dev.header .A) (s.dev.header .B)
    let seq := nextSeq (s.dev.header .A) (s.dev.header .B)
    ∃ t : State,
      exec (.storeWrite r) s = .next t ∧
      t.response = some { result := 0x00#8, data := .seqno seq } ∧
      t.dev.bytesAt (hdrOff slot) 44 = hdrEncode (crc32 (encodeRecord r)) seq ++ encodeRecord r ∧
      t.slotState slot = .written seq true ∧
      t.dev.bytesAt (hdrOff slot.other) 44 = s.dev.bytesAt (hdrOff slot.other) 44 ∧
      t.slotState slot.other = s.slotState slot.other ∧
      (seq ≠ 0#64 → ∀ x h, s.dev.header x = some h → h.seqno < seq)

/-- 43_store.md R203 to R209: STORE_READ's next state. It reads both headers; with neither valid it answers NOT_FOUND;
else it reads the picked slot's payload and answers INTEGRITY when the checksum differs, with no fallback, or the
record and its sequence number. The device does not change. -/
def Obligations.StoreReadAnswersThePickedSlot : Prop :=
  ∀ s : State, s.ready →
    let bytesA := s.dev.seenBytes s.draws 0x000 24
    let bytesB := s.dev.seenBytes (s.draws + 28) 0x100 24
    let headers : List BusEvent :=
      [.txn ([0x03#8, 0x00#8, 0x00#8, 0x00#8] ++ zeros 24) bytesA,
       .txn ([0x03#8, 0x00#8, 0x01#8, 0x00#8] ++ zeros 24) bytesB]
    let regs : WorkRegs :=
      { WorkRegs.empty with
        hbufA := some bytesA, hbufB := some bytesB, ha := some (validate bytesA), hb := some (validate bytesB) }
    (pick (validate bytesA) (validate bytesB) = none →
      exec .storeRead s =
        .next { s with
          cs := false, regs := { regs with rx := some bytesB }
          response := some { result := 0x04#8, data := .empty }
          draws := s.draws + 56, trace := s.trace ++ headers }) ∧
    ∀ (slot : Slot) (h : Header), pick (validate bytesA) (validate bytesB) = some (slot, h) →
      let pay := s.dev.seenBytes (s.draws + 56) (payOff slot) 20
      exec .storeRead s =
        .next { s with
          cs := false
          regs := { regs with pick := some slot, rx := some pay, pay := some pay, crc := some (crc32 pay) }
          response := some
            (if crc32 pay = h.crc32 then { result := 0x00#8, data := .record (decodeRecord pay) h.seqno }
             else { result := 0x03#8, data := .empty })
          draws := s.draws + 80
          trace := s.trace ++ headers ++
            [.txn ([0x03#8, 0x00#8, if slot = .A then 0x00#8 else 0x01#8, 0x18#8] ++ zeros 20) pay] }

/-- 42_crc32.md R175, 43_store.md R207: with any one bit of the picked slot's payload flipped, the headers as they were,
STORE_READ answers INTEGRITY. -/
def Obligations.FlippedPayloadBitFailsIntegrity : Prop :=
  ∀ (d : Device) (s : State) (w : Slot) (h : Header) (i : Nat),
    pick (d.header .A) (d.header .B) = some (w, h) → crc32 (d.payload w) = h.crc32 → i < 160 →
    s.ready → s.dev.answers = true → (∀ x, s.dev.header x = d.header x) → s.dev.payload w = flipBit (d.payload w) i →
    ∃ t : State, exec .storeRead s = .next t ∧ t.response = some { result := 0x03#8, data := .empty } ∧ t.dev = s.dev

/-- 10_state.md R27 (§8 "Re-opening a store bound to the same backing memory"): a STORE_READ after the block is reset
answers what it would have answered without the reset. -/
def Obligations.ReopenedStoreAnswersTheSame : Prop :=
  ∀ (s : State) (rest : List Input), s.ready → s.inputs = .blockReset :: rest →
    ∃ t u v : State, exec .storeRead s = .next t ∧ step s = .next u ∧ exec .storeRead u = .next v ∧
      v.response = t.response ∧ u.dev = s.dev ∧ v.dev = s.dev

/-- 43_store.md R212 (§8 "Write-then-read returns exactly the last written record"): a STORE_READ after a STORE_WRITE
that the device takes answers that record, unless the sequence number has wrapped. -/
def Obligations.WriteThenReadReturnsTheRecord : Prop :=
  ∀ (s : State) (r : Bureau), s.ready → s.dev.slotsWritable →
    nextSeq (s.dev.header .A) (s.dev.header .B) ≠ 0#64 →
    ∃ t u : State, exec (.storeWrite r) s = .next t ∧ exec .storeRead t = .next u ∧
      u.response = some
        { result := 0x00#8, data := .record r (nextSeq (s.dev.header .A) (s.dev.header .B)) }

/-- 43_store.md R212: k STORE_WRITEs on an empty store alternate between the slots from A on; the last write's slot is
Written(k, true), the other, when k ≥ 2, Written(k-1, true), and STORE_READ answers the last record with k. The bound
k < 2^64 keeps clear of the wrap of 70_reset_and_hazards.md R279. -/
def Obligations.WritesFromAnEmptyStore : Prop :=
  ∀ (s : State) (rs : List Bureau) (r : Bureau),
    s.ready → s.dev.slotsWritable → s.dev.header .A = none → s.dev.header .B = none → rs.length + 1 < 2 ^ 64 →
    ∃ t u : State,
      storeWrites (rs ++ [r]) s = .next t ∧
      t.slotState (slotOfWrite (rs.length + 1)) = .written (BitVec.ofNat 64 (rs.length + 1)) true ∧
      (1 ≤ rs.length → t.slotState (slotOfWrite rs.length) = .written (BitVec.ofNat 64 rs.length) true) ∧
      (rs.length = 0 → t.dev.header .B = none ∧ t.slotState .B = s.slotState .B) ∧
      t.response = some { result := 0x00#8, data := .seqno (BitVec.ofNat 64 (rs.length + 1)) } ∧
      exec .storeRead t = .next u ∧
      u.response = some { result := 0x00#8, data := .record r (BitVec.ofNat 64 (rs.length + 1)) }

/-- 70_reset_and_hazards.md R277: on a device that is there and awake, with protection All, STORE_WRITE answers OK and a sequence number,
and no byte of the array changes. -/
def Obligations.ProtectedSlotsSwallowStoreWrites : Prop :=
  ∀ (s : State) (r : Bureau), s.ready → s.dev.answers = true → bp s.dev.sr = 0b11#2 →
    ∃ t : State, exec (.storeWrite r) s = .next t ∧
      t.response = some
        { result := 0x00#8, data := .seqno (nextSeq (s.dev.header .A) (s.dev.header .B)) } ∧
      t.dev.array = s.dev.array

/-- 70_reset_and_hazards.md R279: once A carries 2^64 - 1 and B carries 0, every STORE_WRITE targets B with 0 again, and
STORE_READ keeps answering A's older record. -/
def Obligations.WrappedStoreIsStuck : Prop :=
  ∀ (s : State) (r : Bureau) (a b : Header), s.ready → s.dev.slotsWritable →
    s.dev.header .A = some a → s.dev.header .B = some b → a.seqno = BitVec.ofNat 64 (2 ^ 64 - 1) → b.seqno = 0#64 →
    crc32 (s.dev.payload .A) = a.crc32 →
    ∃ t u : State, exec (.storeWrite r) s = .next t ∧ exec .storeRead t = .next u ∧
      t.response = some { result := 0x00#8, data := .seqno 0#64 } ∧
      t.dev.header .A = some a ∧ t.slotState .B = .written 0#64 true ∧
      u.response = some
        { result := 0x00#8, data := .record (decodeRecord (s.dev.payload .A)) (BitVec.ofNat 64 (2 ^ 64 - 1)) }

/-! ## Power loss, bus faults and hangs -/

/-- 70_reset_and_hazards.md R260, R261, 10_state.md R38: power lost between operations keeps every byte of the array,
and leaves the block as after reset. That the parameters and the history stay is the model's choice (log 17, 19). -/
def Obligations.PowerLossKeepsTheArray : Prop :=
  ∀ (s : State) (rest : List Input), s.inputs = .powerLoss :: rest →
    ∃ t : State, step s = .next t ∧ t.dev.array = s.dev.array ∧ t.dev.params = s.dev.params ∧
      t.cs = false ∧ t.wp = false ∧ t.hold = false ∧ t.seq = .idle ∧ t.regs = WorkRegs.empty ∧ t.response = none ∧
      t.trace = s.trace

/-- 20_memory.md R63, 70_reset_and_hazards.md R260: a DRV_WRITE, or a WRITE frame run on its own, cut by power loss or
a bus fault. Cut before the WRITE's Select it leaves the whole array as it was; cut after it, every byte outside the
range it was writing as it was and the range holding free values; an absent device has no range to hold them (log 35).
No later transaction is sent, and the block is Idle with chip-select released and no response. The model's choices:
frames as instructions (log 12), the count of bus actions (log 14), the free values (log 7, log 15), that a bus fault
ends in Idle with no response (log 16), that power returns in the same step, which leaves the block as after reset
(R260) and keeps the trace (log 17, log 19), and what the trace shows of the cut transaction (log 37). -/
def Obligations.CutWriteLeavesItsRangeOpen : Prop :=
  ∀ (s : State) (kind : MishapKind) (n : Nat),
    s.seq = .idle → s.mishap = some { kind := kind, after := n } → kind ≠ .hang →
    (∀ (addr : Word) (data : List Byte), data.length < 2 ^ 32 → addr.toNat + data.length ≤ 0x80000 →
      n < 3 + (4 + data.length + 2) →
      ∃ t : State, exec (.drvWrite addr data) s = .next t ∧ t.seq = .idle ∧ t.cs = false ∧ t.response = none ∧
        t.trace = s.trace ++
          (if n = 0 then []
           else if n < 3 then [.cutTxn ([0x06#8].take (n - 1))]
           else if n = 3 then [.txn [0x06#8] []]
           else [.txn [0x06#8] [], .cutTxn ((0x02#8 :: (be3 (addr.setWidth 24) ++ data)).take (n - 4))]) ∧
        ∀ a, Memory.read t.dev.array a =
          if s.dev.params.present = true ∧ 3 < n ∧ addr.toNat ≤ a ∧ a < addr.toNat + data.length then
            Config.oracleByte (s.draws + 1 + (a - addr.toNat))
          else Memory.read s.dev.array a) ∧
    ∀ (addr : BusAddr) (data : List Byte), addr.toNat + data.length ≤ 0x80000 → n < 4 + data.length + 2 →
      ∃ t : State, exec (.write addr data) s = .next t ∧ t.seq = .idle ∧ t.cs = false ∧ t.response = none ∧
        t.trace = s.trace ++ (if n = 0 then [] else [.cutTxn ((0x02#8 :: (be3 addr ++ data)).take (n - 1))]) ∧
        ∀ a, Memory.read t.dev.array a =
          if s.dev.params.present = true ∧ 0 < n ∧ addr.toNat ≤ a ∧ a < addr.toNat + data.length then
            Config.oracleByte (s.draws + (a - addr.toNat))
          else Memory.read s.dev.array a

/-- 43_store.md R211, 70_reset_and_hazards.md R260, R273(1), R278: a STORE_WRITE that stops between its two writes
leaves its target slot Transient, the new payload under the old header, and the other slot as it was. Its payload's
WRITE ends with bus action 89 and its header's begins with action 93; a cut comes before action n + 1, a hang at the
next byte exchange, so within the WREN between them. A block reset after it changes neither slot. The model's choices:
how a mishap is counted (log 14), that the sequencer is Idle after a bus fault (log 16) and after a loss of power,
which returns in the same step (log 17), what a hang leaves (log 18), that a block reset can come then and leaves the
device (log 31), and what is recorded of an unfinished write (log 36). -/
def Obligations.StopBetweenTheWritesIsTransient : Prop :=
  ∀ (s : State) (r : Bureau) (kind : MishapKind) (n : Nat),
    s.seq = .idle → s.mishap = some { kind := kind, after := n } → s.dev.slotsWritable →
    (kind ≠ .hang → 89 ≤ n ∧ n ≤ 92) → (kind = .hang → 88 ≤ n ∧ n ≤ 90) →
    let slot := target (s.dev.header .A) (s.dev.header .B)
    ∃ t : State,
      exec (.storeWrite r) s = .next t ∧
      (t.seq = if kind = .hang then .busy (.storeWrite r) 90 else .idle) ∧
      t.slotState slot = .transient ∧
      t.dev.bytesAt (hdrOff slot) 24 = s.dev.bytesAt (hdrOff slot) 24 ∧
      t.dev.payload slot = encodeRecord r ∧
      t.dev.bytesAt (hdrOff slot.other) 44 = s.dev.bytesAt (hdrOff slot.other) 44 ∧
      t.slotState slot.other = s.slotState slot.other ∧
      ∀ x, t.blockReset.slotState x = t.slotState x

/-- 70_reset_and_hazards.md R278, 20_memory.md R71: a byte exchange that never completes, in any transaction of any
instruction, leaves the sequencer Busy with that instruction, chip-select asserted and the response as it was, and every
instruction is refused there; if none hangs the operation ends in Idle. One that hangs in the first frame is reached by
every instruction that sends a frame. The model's choices: the eight serial frames as instructions (log 12) and that they
too are refused while an operation is in progress, as R71 says of host requests (log 29), where the hang comes (`mishap`,
log 14), and that chip-select stays asserted and only a block reset or a loss of power ends the hang (log 18). -/
def Obligations.HungExchangeStaysBusy : Prop :=
  ∀ (i : Instr) (s : State) (k : Nat), s.seq = .idle → s.mishap = some { kind := .hang, after := k } →
    (∀ t : State, exec i s = .next t →
      (t.seq = .idle ∧ ∃ m, t.mishap = some { kind := .hang, after := m }) ∨
      (∃ n, t.seq = .busy i n ∧ t.cs = true ∧ t.mishap = none ∧ t.response = s.response ∧
        ∀ j : Instr, exec j t = .refused .requestWhileBusy)) ∧
    ∀ len : Nat, firstFrame i = some len → k ≤ len →
      ∃ t : State, exec i s = .next t ∧ t.seq = .busy i (max k 1)

/-- 70_reset_and_hazards.md R272: power lost at any bus action of a STORE_WRITE (its six transactions are 122 bus
actions) from a store whose winner is intact and not tied. Where the cut leaves the target header as it was, as it does
before the header's WRITE is selected, or invalid, DRV_WAKE and STORE_READ then answer the old record; where it leaves
the header as the completed write would, the new one. Other torn headers are 70_reset_and_hazards.md R273(2). How a cut is
counted and what it leaves free are log 14, 15 and 17, that DRV_WAKE's one wait wakes the device log 34. -/
def Obligations.PowerLossKeepsARecord : Prop :=
  ∀ (s : State) (r : Bureau) (n : Nat) (w : Slot) (h : Header),
    s.seq = .idle → s.mishap = some { kind := .powerLoss, after := n } → n < 122 → s.dev.slotsWritable →
    pick (s.dev.header .A) (s.dev.header .B) = some (w, h) →
    (∀ a b, s.dev.header .A = some a → s.dev.header .B = some b → a.seqno ≠ b.seqno) →
    crc32 (s.dev.payload w) = h.crc32 →
    nextSeq (s.dev.header .A) (s.dev.header .B) ≠ 0#64 →
    let seq := nextSeq (s.dev.header .A) (s.dev.header .B)
    ∃ t u v : State,
      exec (.storeWrite r) s = .next t ∧ exec .drvWake t = .next u ∧ exec .storeRead u = .next v ∧
      let torn := t.dev.bytesAt (hdrOff w.other) 24
      (n ≤ 92 → torn = s.dev.bytesAt (hdrOff w.other) 24) ∧
      (torn = s.dev.bytesAt (hdrOff w.other) 24 ∨ validate torn = none →
        v.response = some { result := 0x00#8, data := .record (decodeRecord (s.dev.payload w)) h.seqno }) ∧
      (torn = hdrEncode (crc32 (encodeRecord r)) seq →
        v.response = some { result := 0x00#8, data := .record r seq })
end

