-- ==== Sys2Proof/Laws/Decode.lean ====
section
/-! SUPPORT. The opcode bytes and the address bytes of an encoding, read back; byte lists and their values. -/

namespace Sys2Proof.Machine

theorem nat_of_append (x y z : Byte) : (fromBe3 x y z).toNat = x.toNat * 65536 + y.toNat * 256 + z.toNat := by
  unfold fromBe3
  rw [BitVec.toNat_append, BitVec.toNat_append, ← Nat.shiftLeft_add_eq_or_of_lt (BitVec.isLt _),
    ← Nat.shiftLeft_add_eq_or_of_lt (BitVec.isLt _)]
  simp only [Nat.shiftLeft_eq]
  omega

/-- Three address bytes of an address spell it. -/
theorem fromBe3_be3 (a : BusAddr) :
    fromBe3 (a.extractLsb' 16 8) (a.extractLsb' 8 8) (a.extractLsb' 0 8) = a := by
  apply BitVec.eq_of_toNat_eq
  rw [nat_of_append]
  simp only [BitVec.extractLsb'_toNat, Nat.shiftRight_eq_div_pow]
  have := a.isLt
  omega

/-- The address bytes of the address that three bytes spell. -/
theorem be3_fromBe3 (x y z : Byte) : be3 (fromBe3 x y z) = [x, y, z] := by
  have hx := x.isLt
  have hy := y.isLt
  have hz := z.isLt
  unfold be3
  congr 1
  · apply BitVec.eq_of_toNat_eq
    simp only [BitVec.extractLsb'_toNat, nat_of_append, Nat.shiftRight_eq_div_pow]
    omega
  congr 1
  · apply BitVec.eq_of_toNat_eq
    simp only [BitVec.extractLsb'_toNat, nat_of_append, Nat.shiftRight_eq_div_pow]
    omega
  congr 1
  · apply BitVec.eq_of_toNat_eq
    simp only [BitVec.extractLsb'_toNat, nat_of_append, Nat.shiftRight_eq_div_pow]
    omega

@[simp] theorem leBytes_length (n v : Nat) : (leBytes n v).length = n := by
  induction n generalizing v with
  | zero => rfl
  | succ n ih => simp [leBytes, ih]

/-- The value of the n low bytes of a number. -/
theorem fromLe_leBytes (n v : Nat) : fromLe (leBytes n v) = v % 256 ^ n := by
  induction n generalizing v with
  | zero => simp [leBytes, fromLe, Nat.mod_one]
  | succ n ih =>
    simp only [leBytes, fromLe, ih, BitVec.toNat_ofNat]
    rw [show 256 ^ (n + 1) = 256 * 256 ^ n by ring, Nat.mod_mul]

theorem fromLe_lt (l : List Byte) : fromLe l < 256 ^ l.length := by
  induction l with
  | nil => simp [fromLe]
  | cons b l ih =>
    simp only [fromLe, List.length_cons, Nat.pow_succ]
    have := b.isLt
    omega

/-- The bytes of the value of a byte list. -/
theorem leBytes_fromLe (l : List Byte) : leBytes l.length (fromLe l) = l := by
  induction l with
  | nil => rfl
  | cons b l ih =>
    have hb := b.isLt
    have h1 : (b.toNat + 256 * fromLe l) / 256 = fromLe l := by omega
    have h2 : BitVec.ofNat 8 (b.toNat + 256 * fromLe l) = b := by
      apply BitVec.eq_of_toNat_eq
      rw [BitVec.toNat_ofNat]
      omega
    simp only [List.length_cons, leBytes, fromLe, h1, h2, ih]

@[simp] theorem slice_length (l : List Byte) (i j : Nat) : (slice l i j).length = min (j - i) (l.length - i) := by
  simp [slice]

end Sys2Proof.Machine

namespace Sys2Proof

theorem frameOpOf_code (op : FrameOp) : frameOpOf op.code = some op := by cases op <;> decide

theorem hostOpOf_code (op : HostOp) : hostOpOf op.code = some op := by cases op <;> decide

theorem hostOpOf_some {b : Byte} {op : HostOp} (h : hostOpOf b = some op) : op.code = b := by
  simpa using List.find?_some h

theorem frameOpOf_some {b : Byte} {op : FrameOp} (h : frameOpOf b = some op) : op.code = b := by
  simpa using List.find?_some h

/-- A request with the code of a host operation: its operands are decoded. -/
theorem decodeRequest_code (op : HostOp) (o : Operands) :
    decodeRequest { op := op.code, operands := o } = decodeOperands op o := by
  simp only [decodeRequest, hostOpOf_code]

end Sys2Proof
end

