-- ==== Sys2Proof/Laws/Memory.lean ====
section
/-! SUPPORT. The data array: read after write, the frame of a write, and the canonical form kept by every operation. -/

namespace Sys2Proof.Machine

theorem Memory.cell?_write (m : Memory) (a b : Nat) (v : Byte) :
    Memory.cell? (Memory.write m a v) b = if b = a then some v else Memory.cell? m b := by
  induction m with
  | nil => simp [Memory.write, Memory.cell?]
  | cons c m ih =>
    obtain ⟨x, w⟩ := c
    simp only [Memory.write]
    by_cases h1 : a < x
    · by_cases hb : b = a <;> simp [h1, hb, Memory.cell?]
    · by_cases h2 : a = x
      · subst h2
        by_cases hb : b = a <;> simp [hb, Memory.cell?]
      · by_cases hb : b = x
        · have : ¬ b = a := fun h => h2 (h.symm.trans hb)
          simp [h1, h2, hb, Memory.cell?, Ne.symm h2]
        · simp [h1, h2, hb, Memory.cell?, ih]

/-- A byte read after a write: the byte written at its address, the old byte elsewhere. -/
@[simp] theorem Memory.read_write (m : Memory) (a b : Nat) (v : Byte) :
    Memory.read (Memory.write m a v) b = if b = a then v else Memory.read m b := by
  simp only [Memory.read, Memory.cell?_write]
  split_ifs <;> rfl

theorem Memory.mem_write {m : Memory} {a : Nat} {v : Byte} {c : Host.Cell} (h : c ∈ Memory.write m a v) :
    c = (a, v) ∨ c ∈ m := by
  induction m with
  | nil => simpa [Memory.write] using h
  | cons d m ih =>
    obtain ⟨x, w⟩ := d
    simp only [Memory.write] at h
    split_ifs at h with h1 h2
    · simpa using h
    · rcases List.mem_cons.1 h with h | h
      · exact .inl h
      · exact .inr (List.mem_cons_of_mem _ h)
    · rcases List.mem_cons.1 h with h | h
      · exact .inr (h ▸ List.mem_cons_self)
      · exact (ih h).imp_right (List.mem_cons_of_mem _)

/-- A write keeps the canonical form. -/
theorem Memory.wf_write {m : Memory} (h : Memory.wf m) (a : Nat) (v : Byte) : Memory.wf (Memory.write m a v) := by
  induction m with
  | nil => simp [Memory.write]
  | cons c m ih =>
    obtain ⟨x, w⟩ := c
    have hc := List.pairwise_cons.1 h
    simp only [Memory.write]
    split_ifs with h1 h2
    · refine List.pairwise_cons.2 ⟨fun d hd => ?_, h⟩
      rcases List.mem_cons.1 hd with rfl | hd
      · exact h1
      · exact lt_trans h1 (hc.1 d hd)
    · subst h2
      exact List.pairwise_cons.2 ⟨hc.1, hc.2⟩
    · refine List.pairwise_cons.2 ⟨fun d hd => ?_, ih hc.2⟩
      rcases Memory.mem_write hd with rfl | hd
      · show x < a
        omega
      · exact hc.1 d hd

/-- A write inside the array keeps every listed address inside it. -/
theorem Memory.bounded_write {m : Memory} (h : Memory.bounded m) {a : Nat} (ha : a < Config.deviceCapacity) (v : Byte) :
    Memory.bounded (Memory.write m a v) := by
  intro c hc
  rcases Memory.mem_write hc with rfl | hc
  · exact ha
  · exact h c hc

theorem Memory.wf_writeRange (lands : Nat → Bool) {m : Memory} (h : Memory.wf m) (a : Nat) (l : List Byte) :
    Memory.wf (Memory.writeRange lands m a l) := by
  induction l generalizing m a with
  | nil => exact h
  | cons v l ih =>
    simp only [Memory.writeRange]
    refine ih ?_ _
    split_ifs
    · exact Memory.wf_write h a v
    · exact h

theorem Memory.bounded_writeRange (lands : Nat → Bool) {m : Memory} (h : Memory.bounded m) {a : Nat} {l : List Byte}
    (ha : a + l.length ≤ Config.deviceCapacity) : Memory.bounded (Memory.writeRange lands m a l) := by
  induction l generalizing m a with
  | nil => exact h
  | cons v l ih =>
    simp only [List.length_cons] at ha
    simp only [Memory.writeRange]
    refine ih ?_ (by omega)
    split_ifs
    · exact Memory.bounded_write h (by omega) v
    · exact h

/-- A byte read after a range write: the i-th byte written where it lands, the old byte elsewhere. -/
theorem Memory.read_writeRange (lands : Nat → Bool) (m : Memory) (a : Nat) (l : List Byte) (b : Nat) :
    Memory.read (Memory.writeRange lands m a l) b =
      if a ≤ b ∧ b < a + l.length ∧ lands b = true then l.getD (b - a) 0#8 else Memory.read m b := by
  induction l generalizing m a with
  | nil =>
    rw [if_neg (by simp; omega)]
    rfl
  | cons v l ih =>
    simp only [Memory.writeRange, ih, List.length_cons]
    by_cases h : a + 1 ≤ b ∧ b < a + 1 + l.length ∧ lands b = true
    · have hb : b - a = (b - (a + 1)) + 1 := by omega
      rw [if_pos h, if_pos ⟨by omega, by omega, h.2.2⟩, hb, List.getD_cons_succ]
    · rw [if_neg h]
      by_cases hba : b = a
      · subst hba
        by_cases hl : lands b = true
        · simp [hl]
        · simp [hl]
      · have h' : ¬ (a ≤ b ∧ b < a + (l.length + 1) ∧ lands b = true) := by
          rintro ⟨h1, h2, h3⟩
          exact h ⟨by omega, by omega, h3⟩
        rw [if_neg h']
        split_ifs <;> simp [hba]

@[simp] theorem Memory.readRange_length (m : Memory) (a n : Nat) : (Memory.readRange m a n).length = n := by
  induction n generalizing a with
  | zero => rfl
  | succ n ih => simp [Memory.readRange, ih]

/-- Equal bytes give equal ranges. -/
theorem Memory.readRange_congr {m m' : Memory} {a n : Nat}
    (h : ∀ b, a ≤ b → b < a + n → Memory.read m b = Memory.read m' b) :
    Memory.readRange m a n = Memory.readRange m' a n := by
  induction n generalizing a with
  | zero => rfl
  | succ n ih =>
    simp only [Memory.readRange]
    rw [h a (le_refl a) (by omega), ih (fun b h1 h2 => h b (by omega) (by omega))]

/-- A range that holds the bytes of `l` reads as `l`. -/
theorem Memory.readRange_eq {m : Memory} {a : Nat} {l : List Byte}
    (h : ∀ b, a ≤ b → b < a + l.length → Memory.read m b = l.getD (b - a) 0#8) :
    Memory.readRange m a l.length = l := by
  induction l generalizing a with
  | nil => rfl
  | cons v l ih =>
    simp only [List.length_cons, Memory.readRange]
    rw [h a (le_refl a) (by simp), ih]
    · simp
    · intro b h1 h2
      rw [h b (by omega) (by simp; omega)]
      have hb : b - a = (b - (a + 1)) + 1 := by omega
      rw [hb, List.getD_cons_succ]

/-- Equal memories are equal data: two canonical lists with the same written bytes are the same list. -/
theorem Memory.ext_cell? {m m' : Memory} (h : Memory.wf m) (h' : Memory.wf m')
    (he : ∀ a, Memory.cell? m a = Memory.cell? m' a) : m = m' := by
  have key : ∀ {m : Memory} {x : Nat}, (∀ c ∈ m, x < c.1) → ∀ a ≤ x, Memory.cell? m a = none := by
    intro m x hm a ha
    induction m with
    | nil => rfl
    | cons c m ih =>
      obtain ⟨y, w⟩ := c
      have := hm (y, w) List.mem_cons_self
      have hne : a ≠ y := by simp at this; omega
      simp only [Memory.cell?, if_neg hne]
      exact ih (fun c hc => hm c (List.mem_cons_of_mem _ hc))
  induction m generalizing m' with
  | nil =>
    cases m' with
    | nil => rfl
    | cons c m' =>
      have := he c.1
      simp [Memory.cell?] at this
  | cons c m ih =>
    obtain ⟨x, w⟩ := c
    cases m' with
    | nil =>
      have := he x
      simp [Memory.cell?] at this
    | cons c' m' =>
      obtain ⟨y, w'⟩ := c'
      have p := List.pairwise_cons.1 h
      have p' := List.pairwise_cons.1 h'
      have hxy : x = y := by
        rcases Nat.lt_trichotomy x y with hlt | heq | hgt
        · have h1 := he x
          simp only [Memory.cell?, if_neg (Nat.ne_of_lt hlt), if_true] at h1
          rw [key (x := y) p'.1 x (Nat.le_of_lt hlt)] at h1
          cases h1
        · exact heq
        · have h1 := he y
          simp only [Memory.cell?, if_neg (Nat.ne_of_lt hgt), if_true] at h1
          rw [key (x := x) p.1 y (Nat.le_of_lt hgt)] at h1
          cases h1
      subst hxy
      have hw : w = w' := by simpa [Memory.cell?] using he x
      subst hw
      have ht : m = m' := by
        refine ih p.2 p'.2 (fun a => ?_)
        by_cases hax : a ≤ x
        · rw [key (x := x) p.1 a hax, key (x := x) p'.1 a hax]
        · have h1 := he a
          have hne : a ≠ x := by omega
          simpa only [Memory.cell?, if_neg hne] using h1
      rw [ht]

@[simp] theorem oracleBytes_length (draw n : Nat) : (oracleBytes draw n).length = n := by
  induction n generalizing draw with
  | zero => rfl
  | succ n ih => simp [oracleBytes, ih]

end Sys2Proof.Machine
end

