-- ==== Sys2Proof/Laws/State.lean ====
section
/-! SUPPORT. One lemma per field of State for each named update of it, all true by rfl. -/

namespace Sys2Proof.Machine

/-! ### accept -/

@[simp] theorem State.accept_cs (s : State) (i : Instr) : (s.accept i).cs = s.cs := rfl
@[simp] theorem State.accept_wp (s : State) (i : Instr) : (s.accept i).wp = s.wp := rfl
@[simp] theorem State.accept_hold (s : State) (i : Instr) : (s.accept i).hold = s.hold := rfl
@[simp] theorem State.accept_seq (s : State) (i : Instr) : (s.accept i).seq = .busy i 0 := rfl
@[simp] theorem State.accept_regs (s : State) (i : Instr) : (s.accept i).regs = WorkRegs.empty := rfl
@[simp] theorem State.accept_response (s : State) (i : Instr) : (s.accept i).response = s.response := rfl
@[simp] theorem State.accept_dev (s : State) (i : Instr) : (s.accept i).dev = s.dev := rfl
@[simp] theorem State.accept_draws (s : State) (i : Instr) : (s.accept i).draws = s.draws := rfl
@[simp] theorem State.accept_mishap (s : State) (i : Instr) : (s.accept i).mishap = s.mishap := rfl
@[simp] theorem State.accept_trace (s : State) (i : Instr) : (s.accept i).trace = s.trace := rfl
@[simp] theorem State.accept_inputs (s : State) (i : Instr) : (s.accept i).inputs = s.inputs := rfl
@[simp] theorem State.accept_unfinishedA (s : State) (i : Instr) : (s.accept i).unfinishedA = s.unfinishedA := rfl
@[simp] theorem State.accept_unfinishedB (s : State) (i : Instr) : (s.accept i).unfinishedB = s.unfinishedB := rfl

/-! ### respond -/

@[simp] theorem State.respond_cs (s : State) (r : Response) : (s.respond r).cs = false := rfl
@[simp] theorem State.respond_wp (s : State) (r : Response) : (s.respond r).wp = s.wp := rfl
@[simp] theorem State.respond_hold (s : State) (r : Response) : (s.respond r).hold = s.hold := rfl
@[simp] theorem State.respond_seq (s : State) (r : Response) : (s.respond r).seq = .idle := rfl
@[simp] theorem State.respond_regs (s : State) (r : Response) : (s.respond r).regs = s.regs := rfl
@[simp] theorem State.respond_response (s : State) (r : Response) : (s.respond r).response = some r := rfl
@[simp] theorem State.respond_dev (s : State) (r : Response) : (s.respond r).dev = s.dev := rfl
@[simp] theorem State.respond_draws (s : State) (r : Response) : (s.respond r).draws = s.draws := rfl
@[simp] theorem State.respond_mishap (s : State) (r : Response) : (s.respond r).mishap = s.mishap := rfl
@[simp] theorem State.respond_trace (s : State) (r : Response) : (s.respond r).trace = s.trace := rfl
@[simp] theorem State.respond_inputs (s : State) (r : Response) : (s.respond r).inputs = s.inputs := rfl
@[simp] theorem State.respond_unfinishedA (s : State) (r : Response) : (s.respond r).unfinishedA = s.unfinishedA := rfl
@[simp] theorem State.respond_unfinishedB (s : State) (r : Response) : (s.respond r).unfinishedB = s.unfinishedB := rfl

/-! ### release -/

@[simp] theorem State.release_cs (s : State) : s.release.cs = false := rfl
@[simp] theorem State.release_wp (s : State) : s.release.wp = s.wp := rfl
@[simp] theorem State.release_hold (s : State) : s.release.hold = s.hold := rfl
@[simp] theorem State.release_seq (s : State) : s.release.seq = .idle := rfl
@[simp] theorem State.release_regs (s : State) : s.release.regs = s.regs := rfl
@[simp] theorem State.release_response (s : State) : s.release.response = s.response := rfl
@[simp] theorem State.release_dev (s : State) : s.release.dev = s.dev := rfl
@[simp] theorem State.release_draws (s : State) : s.release.draws = s.draws := rfl
@[simp] theorem State.release_mishap (s : State) : s.release.mishap = s.mishap := rfl
@[simp] theorem State.release_trace (s : State) : s.release.trace = s.trace := rfl
@[simp] theorem State.release_inputs (s : State) : s.release.inputs = s.inputs := rfl
@[simp] theorem State.release_unfinishedA (s : State) : s.release.unfinishedA = s.unfinishedA := rfl
@[simp] theorem State.release_unfinishedB (s : State) : s.release.unfinishedB = s.unfinishedB := rfl

/-! ### illegalOp -/

@[simp] theorem State.illegalOp_cs (s : State) : s.illegalOp.cs = s.cs := rfl
@[simp] theorem State.illegalOp_wp (s : State) : s.illegalOp.wp = s.wp := rfl
@[simp] theorem State.illegalOp_hold (s : State) : s.illegalOp.hold = s.hold := rfl
@[simp] theorem State.illegalOp_seq (s : State) : s.illegalOp.seq = s.seq := rfl
@[simp] theorem State.illegalOp_regs (s : State) : s.illegalOp.regs = s.regs := rfl
@[simp] theorem State.illegalOp_response (s : State) : s.illegalOp.response = some (Response.failure .illegalOp) := rfl
@[simp] theorem State.illegalOp_dev (s : State) : s.illegalOp.dev = s.dev := rfl
@[simp] theorem State.illegalOp_draws (s : State) : s.illegalOp.draws = s.draws := rfl
@[simp] theorem State.illegalOp_mishap (s : State) : s.illegalOp.mishap = s.mishap := rfl
@[simp] theorem State.illegalOp_trace (s : State) : s.illegalOp.trace = s.trace := rfl
@[simp] theorem State.illegalOp_inputs (s : State) : s.illegalOp.inputs = s.inputs := rfl
@[simp] theorem State.illegalOp_unfinishedA (s : State) : s.illegalOp.unfinishedA = s.unfinishedA := rfl
@[simp] theorem State.illegalOp_unfinishedB (s : State) : s.illegalOp.unfinishedB = s.unfinishedB := rfl

/-! ### blockReset -/

@[simp] theorem State.blockReset_cs (s : State) : s.blockReset.cs = false := rfl
@[simp] theorem State.blockReset_wp (s : State) : s.blockReset.wp = false := rfl
@[simp] theorem State.blockReset_hold (s : State) : s.blockReset.hold = false := rfl
@[simp] theorem State.blockReset_seq (s : State) : s.blockReset.seq = .idle := rfl
@[simp] theorem State.blockReset_regs (s : State) : s.blockReset.regs = WorkRegs.empty := rfl
@[simp] theorem State.blockReset_response (s : State) : s.blockReset.response = none := rfl
@[simp] theorem State.blockReset_dev (s : State) : s.blockReset.dev = s.dev := rfl
@[simp] theorem State.blockReset_draws (s : State) : s.blockReset.draws = s.draws := rfl
@[simp] theorem State.blockReset_mishap (s : State) : s.blockReset.mishap = s.mishap := rfl
@[simp] theorem State.blockReset_trace (s : State) : s.blockReset.trace = s.trace := rfl
@[simp] theorem State.blockReset_inputs (s : State) : s.blockReset.inputs = s.inputs := rfl
@[simp] theorem State.blockReset_unfinishedA (s : State) : s.blockReset.unfinishedA = s.unfinishedA := rfl
@[simp] theorem State.blockReset_unfinishedB (s : State) : s.blockReset.unfinishedB = s.unfinishedB := rfl

/-! ### powerLoss -/

@[simp] theorem State.powerLoss_cs (s : State) : s.powerLoss.cs = false := rfl
@[simp] theorem State.powerLoss_wp (s : State) : s.powerLoss.wp = false := rfl
@[simp] theorem State.powerLoss_hold (s : State) : s.powerLoss.hold = false := rfl
@[simp] theorem State.powerLoss_seq (s : State) : s.powerLoss.seq = .idle := rfl
@[simp] theorem State.powerLoss_regs (s : State) : s.powerLoss.regs = WorkRegs.empty := rfl
@[simp] theorem State.powerLoss_response (s : State) : s.powerLoss.response = none := rfl
@[simp] theorem State.powerLoss_dev (s : State) : s.powerLoss.dev = s.dev.powerCycle s.draws := rfl
@[simp] theorem State.powerLoss_draws (s : State) : s.powerLoss.draws = s.draws + 2 := rfl
@[simp] theorem State.powerLoss_mishap (s : State) : s.powerLoss.mishap = s.mishap := rfl
@[simp] theorem State.powerLoss_trace (s : State) : s.powerLoss.trace = s.trace := rfl
@[simp] theorem State.powerLoss_inputs (s : State) : s.powerLoss.inputs = s.inputs := rfl
@[simp] theorem State.powerLoss_unfinishedA (s : State) : s.powerLoss.unfinishedA = s.unfinishedA := rfl
@[simp] theorem State.powerLoss_unfinishedB (s : State) : s.powerLoss.unfinishedB = s.unfinishedB := rfl

/-! ### afterTxn -/

@[simp] theorem State.afterTxn_cs (s : State) (f : Frame) : (s.afterTxn f).cs = false := rfl
@[simp] theorem State.afterTxn_wp (s : State) (f : Frame) : (s.afterTxn f).wp = s.wp := rfl
@[simp] theorem State.afterTxn_hold (s : State) (f : Frame) : (s.afterTxn f).hold = s.hold := rfl
@[simp] theorem State.afterTxn_seq (s : State) (f : Frame) : (s.afterTxn f).seq = s.seq.advance (f.bytes.length + 2) := rfl
@[simp] theorem State.afterTxn_regs (s : State) (f : Frame) : (s.afterTxn f).regs = s.regs := rfl
@[simp] theorem State.afterTxn_response (s : State) (f : Frame) : (s.afterTxn f).response = s.response := rfl
@[simp] theorem State.afterTxn_dev (s : State) (f : Frame) : (s.afterTxn f).dev = s.dev.apply s.wp f := rfl
@[simp] theorem State.afterTxn_draws (s : State) (f : Frame) : (s.afterTxn f).draws = s.draws + f.bytes.length := rfl
@[simp] theorem State.afterTxn_mishap (s : State) (f : Frame) : (s.afterTxn f).mishap = s.mishap.map (fun m => m.later (f.bytes.length + 2)) := rfl
@[simp] theorem State.afterTxn_trace (s : State) (f : Frame) : (s.afterTxn f).trace = s.trace ++ [.txn f.bytes (capturedBytes f (s.dev.incoming s.draws f))] := rfl
@[simp] theorem State.afterTxn_inputs (s : State) (f : Frame) : (s.afterTxn f).inputs = s.inputs := rfl
@[simp] theorem State.afterTxn_unfinishedA (s : State) (f : Frame) : (s.afterTxn f).unfinishedA = s.unfinishedA := rfl
@[simp] theorem State.afterTxn_unfinishedB (s : State) (f : Frame) : (s.afterTxn f).unfinishedB = s.unfinishedB := rfl

/-! ### afterAction -/

@[simp] theorem State.afterAction_cs (s : State) (ev : BusEvent) : (s.afterAction ev).cs = s.cs := rfl
@[simp] theorem State.afterAction_wp (s : State) (ev : BusEvent) : (s.afterAction ev).wp = s.wp := rfl
@[simp] theorem State.afterAction_hold (s : State) (ev : BusEvent) : (s.afterAction ev).hold = s.hold := rfl
@[simp] theorem State.afterAction_seq (s : State) (ev : BusEvent) : (s.afterAction ev).seq = s.seq.advance 1 := rfl
@[simp] theorem State.afterAction_regs (s : State) (ev : BusEvent) : (s.afterAction ev).regs = s.regs := rfl
@[simp] theorem State.afterAction_response (s : State) (ev : BusEvent) : (s.afterAction ev).response = s.response := rfl
@[simp] theorem State.afterAction_dev (s : State) (ev : BusEvent) : (s.afterAction ev).dev = s.dev := rfl
@[simp] theorem State.afterAction_draws (s : State) (ev : BusEvent) : (s.afterAction ev).draws = s.draws := rfl
@[simp] theorem State.afterAction_mishap (s : State) (ev : BusEvent) : (s.afterAction ev).mishap = s.mishap.map (fun m => m.later 1) := rfl
@[simp] theorem State.afterAction_trace (s : State) (ev : BusEvent) : (s.afterAction ev).trace = s.trace ++ [ev] := rfl
@[simp] theorem State.afterAction_inputs (s : State) (ev : BusEvent) : (s.afterAction ev).inputs = s.inputs := rfl
@[simp] theorem State.afterAction_unfinishedA (s : State) (ev : BusEvent) : (s.afterAction ev).unfinishedA = s.unfinishedA := rfl
@[simp] theorem State.afterAction_unfinishedB (s : State) (ev : BusEvent) : (s.afterAction ev).unfinishedB = s.unfinishedB := rfl

/-! ### setUnfinished -/

@[simp] theorem State.setUnfinished_cs (s : State) (x : Slot) (u : Option Unfinished) : (s.setUnfinished x u).cs = s.cs := rfl
@[simp] theorem State.setUnfinished_wp (s : State) (x : Slot) (u : Option Unfinished) : (s.setUnfinished x u).wp = s.wp := rfl
@[simp] theorem State.setUnfinished_hold (s : State) (x : Slot) (u : Option Unfinished) : (s.setUnfinished x u).hold = s.hold := rfl
@[simp] theorem State.setUnfinished_seq (s : State) (x : Slot) (u : Option Unfinished) : (s.setUnfinished x u).seq = s.seq := rfl
@[simp] theorem State.setUnfinished_regs (s : State) (x : Slot) (u : Option Unfinished) : (s.setUnfinished x u).regs = s.regs := rfl
@[simp] theorem State.setUnfinished_response (s : State) (x : Slot) (u : Option Unfinished) : (s.setUnfinished x u).response = s.response := rfl
@[simp] theorem State.setUnfinished_dev (s : State) (x : Slot) (u : Option Unfinished) : (s.setUnfinished x u).dev = s.dev := rfl
@[simp] theorem State.setUnfinished_draws (s : State) (x : Slot) (u : Option Unfinished) : (s.setUnfinished x u).draws = s.draws := rfl
@[simp] theorem State.setUnfinished_mishap (s : State) (x : Slot) (u : Option Unfinished) : (s.setUnfinished x u).mishap = s.mishap := rfl
@[simp] theorem State.setUnfinished_trace (s : State) (x : Slot) (u : Option Unfinished) : (s.setUnfinished x u).trace = s.trace := rfl
@[simp] theorem State.setUnfinished_inputs (s : State) (x : Slot) (u : Option Unfinished) : (s.setUnfinished x u).inputs = s.inputs := rfl
@[simp] theorem State.setUnfinished_unfinishedA (s : State) (x : Slot) (u : Option Unfinished) :
    (s.setUnfinished x u).unfinishedA = if x = .A then u else s.unfinishedA := rfl
@[simp] theorem State.setUnfinished_unfinishedB (s : State) (x : Slot) (u : Option Unfinished) :
    (s.setUnfinished x u).unfinishedB = if x = .B then u else s.unfinishedB := rfl

/-- Reading the record of one slot after writing the record of another, or of the same. -/
theorem State.unfinished_setUnfinished (s : State) (x y : Slot) (u : Option Unfinished) :
    (s.setUnfinished x u).unfinished y = if x = y then u else s.unfinished y := by
  cases x <;> cases y <;> rfl
@[simp] theorem State.unfinished_A (s : State) : s.unfinished .A = s.unfinishedA := rfl
@[simp] theorem State.unfinished_B (s : State) : s.unfinished .B = s.unfinishedB := rfl

/-! ### reset -/

@[simp] theorem State.resetWith_dev (d : Device) : (State.resetWith d).dev = d := rfl
@[simp] theorem State.resetWith_seq (d : Device) : (State.resetWith d).seq = .idle := rfl
@[simp] theorem State.resetWith_mishap (d : Device) : (State.resetWith d).mishap = none := rfl
@[simp] theorem State.resetWith_inputs (d : Device) : (State.resetWith d).inputs = [] := rfl
@[simp] theorem State.resetWith_unfinishedA (d : Device) : (State.resetWith d).unfinishedA = none := rfl
@[simp] theorem State.resetWith_unfinishedB (d : Device) : (State.resetWith d).unfinishedB = none := rfl

end Sys2Proof.Machine
end

