-- ==== Sys2Proof/Laws/Ops.lean ====
section
/-! SUPPORT. What each shared operation can do, said once: sequencing, register access, transactions, single bus
actions, and the driver's read and write. -/

namespace Sys2Proof.Machine

/-! ## Sequencing -/

theorem op_pure {α : Type} (a : α) (s : State) : Op.pure a s = .ok a s := rfl

theorem op_bind_ok {α β : Type} {x : Op α} {f : α → Op β} {s t : State} {a : α} (h : x s = .ok a t) :
    Op.bind x f s = f a t := by
  simp only [Op.bind, h]

/-- As `op_bind_ok`, with what the second part does. -/
theorem op_bind_ok_trans {α β : Type} {x : Op α} {f : α → Op β} {s t : State} {a : α} {r : Res β} (h : x s = .ok a t)
    (hf : f a t = r) : Op.bind x f s = r := (op_bind_ok h).trans hf

theorem op_bind_stop {α β : Type} {x : Op α} {f : α → Op β} {s t : State} {e : Stop} (h : x s = .stop e t) :
    Op.bind x f s = .stop e t := by
  simp only [Op.bind, h]

theorem op_then_ok {α β : Type} {x : Op α} {y : Op β} {s t : State} {a : α} (h : x s = .ok a t) :
    Op.andThen x y s = y t := op_bind_ok h

theorem op_then_stop {α β : Type} {x : Op α} {y : Op β} {s t : State} {e : Stop} (h : x s = .stop e t) :
    Op.andThen x y s = .stop e t := op_bind_stop h

/-- How a sequence can end normally: through both parts. -/
theorem op_bind_eq_ok {α β : Type} {x : Op α} {f : α → Op β} {s t : State} {b : β} (h : Op.bind x f s = .ok b t) :
    ∃ a u, x s = .ok a u ∧ f a u = .ok b t := by
  cases hx : x s with
  | ok a u => exact ⟨a, u, rfl, by rwa [op_bind_ok hx] at h⟩
  | stop e u => rw [op_bind_stop hx] at h; cases h

/-- How a sequence can end early: in its first part, or in its second. -/
theorem op_bind_eq_stop {α β : Type} {x : Op α} {f : α → Op β} {s t : State} {e : Stop}
    (h : Op.bind x f s = .stop e t) : x s = .stop e t ∨ ∃ a u, x s = .ok a u ∧ f a u = .stop e t := by
  cases hx : x s with
  | ok a u => exact .inr ⟨a, u, rfl, by rwa [op_bind_ok hx] at h⟩
  | stop e' u => rw [op_bind_stop hx] at h; cases h; exact .inl rfl

/-! ## Host operations and serial commands -/

theorem hostOp_busy {i : Instr} {body : Op RespData} {s : State} {op : Instr} {k : Nat} (h : s.seq = .busy op k) :
    hostOp i body s = .refused .requestWhileBusy := by
  simp only [hostOp, h]

theorem hostOp_idle {i : Instr} {body : Op RespData} {s : State} (h : s.seq = .idle) (hw : i.wellFormed = true) :
    hostOp i body s = settle (fun d t => t.respond (Response.success d)) (body (s.accept i)) := by
  simp only [hostOp, h, hw, if_true]

theorem hostOp_illFormed {i : Instr} {body : Op RespData} {s : State} (h : s.seq = .idle) (hw : i.wellFormed = false) :
    hostOp i body s = .next s.illegalOp := by
  simp [hostOp, h, hw]

/-- A host operation whose body ends normally completes. -/
theorem hostOp_ok {i : Instr} {body : Op RespData} {s t : State} {d : RespData} (h : s.seq = .idle)
    (hw : i.wellFormed = true) (hb : body (s.accept i) = .ok d t) :
    hostOp i body s = .next (t.respond (Response.success d)) := by
  rw [hostOp_idle h hw, hb]
  rfl

/-- A host operation whose body raises an error answers its code. -/
theorem hostOp_raised {i : Instr} {body : Op RespData} {s t : State} {c : ResultCode} (h : s.seq = .idle)
    (hw : i.wellFormed = true) (hb : body (s.accept i) = .stop (.raised c) t) :
    hostOp i body s = .next (t.respond (Response.failure c)) := by
  rw [hostOp_idle h hw, hb]
  rfl

/-- A host operation that a mishap ends or stalls leaves the state the mishap made. -/
theorem hostOp_abandoned {i : Instr} {body : Op RespData} {s t : State} (h : s.seq = .idle)
    (hw : i.wellFormed = true) (hb : body (s.accept i) = .stop .abandoned t) : hostOp i body s = .next t := by
  rw [hostOp_idle h hw, hb]
  rfl

/-- Every way a host operation can answer a next state. -/
theorem hostOp_next {i : Instr} {body : Op RespData} {s u : State} (h : hostOp i body s = .next u) :
    s.seq = .idle ∧
      ((i.wellFormed = false ∧ u = s.illegalOp) ∨
        (i.wellFormed = true ∧
          ((∃ d t, body (s.accept i) = .ok d t ∧ u = t.respond (Response.success d)) ∨
            (∃ c t, body (s.accept i) = .stop (.raised c) t ∧ u = t.respond (Response.failure c)) ∨
            body (s.accept i) = .stop .abandoned u))) := by
  cases hs : s.seq with
  | busy op k => rw [hostOp_busy hs] at h; cases h
  | idle =>
    refine ⟨rfl, ?_⟩
    cases hw : i.wellFormed with
    | false =>
      rw [hostOp_illFormed hs hw] at h
      cases h
      exact .inl ⟨rfl, rfl⟩
    | true =>
      rw [hostOp_idle hs hw] at h
      refine .inr ⟨rfl, ?_⟩
      cases hb : body (s.accept i) with
      | ok d t => rw [hb] at h; cases h; exact .inl ⟨d, t, rfl, rfl⟩
      | stop e t =>
        rw [hb] at h
        cases e with
        | raised c => cases h; exact .inr (.inl ⟨c, t, rfl, rfl⟩)
        | abandoned => cases h; exact .inr (.inr rfl)
        | faulted f => cases h

/-! ## Working registers -/

theorem readReg_some {α : Type} {n : WorkReg} {get : WorkRegs → Option α} {s : State} {v : α} (h : get s.regs = some v) :
    readReg n get s = .ok v s := by
  simp only [readReg, h]

theorem readReg_eq_ok {α : Type} {n : WorkReg} {get : WorkRegs → Option α} {s t : State} {v : α}
    (h : readReg n get s = .ok v t) : get s.regs = some v ∧ t = s := by
  unfold readReg at h
  cases hg : get s.regs with
  | none => rw [hg] at h; cases h
  | some w => rw [hg] at h; cases h; exact ⟨rfl, rfl⟩

theorem writeRegs_run (upd : WorkRegs → WorkRegs) (s : State) :
    writeRegs upd s = .ok () { s with regs := upd s.regs } := rfl

theorem setCrc_run (v : Word) (s : State) :
    setCrc v s = .ok () { s with regs := { s.regs with crc := some v } } := rfl
theorem getCrc_some {s : State} {v : Word} (h : s.regs.crc = some v) : getCrc s = .ok v s := readReg_some h
theorem setPay_run (v : List Byte) (s : State) :
    setPay v s = .ok () { s with regs := { s.regs with pay := some v } } := rfl
theorem getPay_some {s : State} {v : List Byte} (h : s.regs.pay = some v) : getPay s = .ok v s := readReg_some h
theorem setNextSeq_run (v : DWord) (s : State) :
    setNextSeq v s = .ok () { s with regs := { s.regs with nextSeq := some v } } := rfl
theorem getNextSeq_some {s : State} {v : DWord} (h : s.regs.nextSeq = some v) : getNextSeq s = .ok v s := readReg_some h
theorem setTarget_run (v : Slot) (s : State) :
    setTarget v s = .ok () { s with regs := { s.regs with target := some v } } := rfl
theorem getTarget_some {s : State} {v : Slot} (h : s.regs.target = some v) : getTarget s = .ok v s := readReg_some h
theorem setPick_run (v : Slot) (s : State) :
    setPick v s = .ok () { s with regs := { s.regs with pick := some v } } := rfl
theorem getPick_some {s : State} {v : Slot} (h : s.regs.pick = some v) : getPick s = .ok v s := readReg_some h
theorem setSrTmp_run (v : Byte) (s : State) :
    setSrTmp v s = .ok () { s with regs := { s.regs with srTmp := some v } } := rfl
theorem getSrTmp_some {s : State} {v : Byte} (h : s.regs.srTmp = some v) : getSrTmp s = .ok v s := readReg_some h
theorem setRx_run (v : List Byte) (s : State) :
    setRx v s = .ok () { s with regs := { s.regs with rx := some v } } := rfl
theorem getRx_some {s : State} {v : List Byte} (h : s.regs.rx = some v) : getRx s = .ok v s := readReg_some h
theorem setHbufA_run (v : List Byte) (s : State) :
    setHbuf .A v s = .ok () { s with regs := { s.regs with hbufA := some v } } := rfl
theorem getHbufA_some {s : State} {v : List Byte} (h : s.regs.hbufA = some v) : getHbuf .A s = .ok v s :=
  readReg_some h
theorem setHdrA_run (v : Option Header) (s : State) :
    setHdr .A v s = .ok () { s with regs := { s.regs with ha := some v } } := rfl
theorem getHdrA_some {s : State} {v : Option Header} (h : s.regs.ha = some v) : getHdr .A s = .ok v s :=
  readReg_some h
theorem setHbufB_run (v : List Byte) (s : State) :
    setHbuf .B v s = .ok () { s with regs := { s.regs with hbufB := some v } } := rfl
theorem getHbufB_some {s : State} {v : List Byte} (h : s.regs.hbufB = some v) : getHbuf .B s = .ok v s :=
  readReg_some h
theorem setHdrB_run (v : Option Header) (s : State) :
    setHdr .B v s = .ok () { s with regs := { s.regs with hb := some v } } := rfl
theorem getHdrB_some {s : State} {v : Option Header} (h : s.regs.hb = some v) : getHdr .B s = .ok v s :=
  readReg_some h

/-! ## Transactions and single actions -/

/-- With no mishap armed a transaction completes. -/
theorem txn_ok {s : State} (h : s.mishap = none) (f : Frame) :
    txn f s = .ok (capturedBytes f (s.dev.incoming s.draws f)) (s.afterTxn f) := by
  simp only [txn, h]

/-- Every way a transaction can end: it completes and no mishap happens inside it, or one does. -/
theorem txn_cases (f : Frame) (s : State) :
    (txn f s = .ok (capturedBytes f (s.dev.incoming s.draws f)) (s.afterTxn f) ∧
        ∀ m, s.mishap = some m → m.firesIn f.bytes.length = none) ∨
      ∃ m done, s.mishap = some m ∧ m.firesIn f.bytes.length = some done ∧
        txn f s = .stop .abandoned ((s.cutTxn f done).struck m.kind) := by
  cases hm : s.mishap with
  | none => exact .inl ⟨txn_ok hm f, fun m h => by cases h⟩
  | some m =>
    cases hf : m.firesIn f.bytes.length with
    | none => exact .inl ⟨by simp only [txn, hm, hf], fun m' h => by cases h; exact hf⟩
    | some done => exact .inr ⟨m, done, rfl, hf, by simp only [txn, hm, hf]⟩

theorem action_ok {s : State} (h : s.mishap = none) (ev : BusEvent) (upd : State → State) :
    action ev upd s = .ok () ((upd s).afterAction ev) := by
  simp only [action, h]

theorem driveWp_ok {s : State} (h : s.mishap = none) (level : Bool) :
    driveWp level s =
      .ok () { s with wp := level, seq := s.seq.advance 1, trace := s.trace ++ [.setWp level] } := by
  rw [driveWp, action_ok h]
  simp [State.afterAction, h]

theorem delay_ok {s : State} (h : s.mishap = none) (us : Nat) :
    delay us s =
      .ok () { s with dev := s.dev.elapse us, seq := s.seq.advance 1, trace := s.trace ++ [.delay us] } := by
  rw [delay, action_ok h]
  simp [State.afterAction, h]

/-- Every way a single bus action can end: it is done and no mishap happens instead of it, or one does. -/
theorem action_cases (ev : BusEvent) (upd : State → State) (s : State) :
    (action ev upd s = .ok () ((upd s).afterAction ev) ∧ ∀ m, s.mishap = some m → m.firesNow = false) ∨
      ∃ m, s.mishap = some m ∧ m.firesNow = true ∧
        action ev upd s = .stop .abandoned ({ s with mishap := none : State }.struck m.kind) := by
  cases hm : s.mishap with
  | none => exact .inl ⟨action_ok hm ev upd, fun m h => by cases h⟩
  | some m =>
    cases hf : m.firesNow with
    | false => exact .inl ⟨by simp [action, hm, hf], fun m' h => by cases h; exact hf⟩
    | true => exact .inr ⟨m, rfl, hf, by simp [action, hm, hf]⟩

@[simp] theorem afterTxn_mishap_none {s : State} (h : s.mishap = none) (f : Frame) : (s.afterTxn f).mishap = none := by
  simp [h]

@[simp] theorem afterAction_mishap_none {s : State} (h : s.mishap = none) (ev : BusEvent) :
    (s.afterAction ev).mishap = none := by
  simp [h]

/-! ## The device -/

theorem Device.answers_iff {d : Device} : d.answers = true ↔ d.params.present = true ∧ d.asleep = false := by
  simp [Device.answers]

/-- A sleeping device does not answer. -/
theorem Device.answers_asleep {d : Device} (h : d.asleep = true) : d.answers = false := by
  simp [Device.answers, h]

/-- An absent device does not answer. -/
theorem Device.answers_absent {d : Device} (h : d.params.present = false) : d.answers = false := by
  simp [Device.answers, h]

theorem Device.ifPresent_present {d : Device} (h : d.params.present = true) (e : Device) : d.ifPresent e = e := by
  simp [Device.ifPresent, h]

theorem Device.ifPresent_absent {d : Device} (h : d.params.present = false) (e : Device) : d.ifPresent e = d := by
  simp [Device.ifPresent, h]

@[simp] theorem Device.ifPresent_self (d : Device) : d.ifPresent d = d := by
  simp [Device.ifPresent]

/-- Either the device is there and becomes `e`, or it is absent and stays as it was. -/
theorem Device.ifPresent_cases (d e : Device) :
    (d.params.present = true ∧ d.ifPresent e = e) ∨ (d.params.present = false ∧ d.ifPresent e = d) := by
  cases h : d.params.present with
  | true => exact .inl ⟨rfl, Device.ifPresent_present h e⟩
  | false => exact .inr ⟨rfl, Device.ifPresent_absent h e⟩

/-- Whatever `e` leaves of a device as it was, is as it was, there or absent. -/
theorem Device.ifPresent_keeps {α : Type} (g : Device → α) {d e : Device} (h : g e = g d) : g (d.ifPresent e) = g d := by
  rcases Device.ifPresent_cases d e with ⟨-, he⟩ | ⟨-, he⟩ <;> rw [he]
  exact h

/-- Nothing that happens on the bus changes an absent device (40_driver.md R115; log 35). -/
theorem Device.apply_absent {d : Device} (h : d.params.present = false) (wp : Bool) (f : Frame) : d.apply wp f = d :=
  Device.ifPresent_absent h _

theorem Device.cut_absent {d : Device} (h : d.params.present = false) (draw : Nat) (f : Frame) : d.cut draw f = d :=
  Device.ifPresent_absent h _

theorem Device.elapse_absent {d : Device} (h : d.params.present = false) (us : Nat) : d.elapse us = d :=
  Device.ifPresent_absent h _

theorem Device.powerCycle_absent {d : Device} (h : d.params.present = false) (draw : Nat) : d.powerCycle draw = d :=
  Device.ifPresent_absent h _

/-- A sleeping or absent device gives whatever the line carries, at every position. -/
theorem Device.incoming_silent {d : Device} (h : d.answers = false) (draw : Nat) (f : Frame) :
    d.incoming draw f = oracleBytes draw f.bytes.length := by
  simp [Device.incoming, h]

@[simp] theorem Device.incoming_length (d : Device) (draw : Nat) (f : Frame) :
    (d.incoming draw f).length = f.bytes.length := by
  unfold Device.incoming
  split
  · cases f <;> simp [Frame.bytes, be3, zeros]
    omega
  · simp

/-- READ captures exactly the bytes asked for. -/
@[simp] theorem captured_read_length (d : Device) (draw : Nat) (addr : BusAddr) (n : Nat) :
    (capturedBytes (.read addr n) (d.incoming draw (.read addr n))).length = n := by
  simp [capturedBytes, Frame.bytes, be3, zeros]

/-- READ of a device that answers captures the bytes of the array (30_encoding.md R85). -/
theorem captured_read {d : Device} (h : d.answers = true) (draw : Nat) (addr : BusAddr) (n : Nat) :
    capturedBytes (.read addr n) (d.incoming draw (.read addr n)) = Memory.readRange d.array addr.toNat n := by
  simp [capturedBytes, Device.incoming, h, oracleBytes]

/-- RDSR of a device that answers captures the status register. -/
theorem captured_rdsr {d : Device} (h : d.answers = true) (draw : Nat) :
    capturedBytes .rdsr (d.incoming draw .rdsr) = [d.sr] := by
  simp [capturedBytes, Device.incoming, h, oracleBytes]

/-- READ and RDSR leave the device as it is (20_memory.md R64). -/
@[simp] theorem Device.apply_read (d : Device) (wp : Bool) (addr : BusAddr) (n : Nat) : d.apply wp (.read addr n) = d := by
  simp [Device.apply]

@[simp] theorem Device.apply_rdsr (d : Device) (wp : Bool) : d.apply wp .rdsr = d := by
  simp [Device.apply]

/-- No transaction changes the parameters of the device and the bus. -/
@[simp] theorem Device.apply_params (d : Device) (wp : Bool) (f : Frame) : (d.apply wp f).params = d.params :=
  Device.ifPresent_keeps Device.params (by split <;> cases f <;> rfl)

@[simp] theorem Device.cut_params (d : Device) (draw : Nat) (f : Frame) : (d.cut draw f).params = d.params :=
  Device.ifPresent_keeps Device.params (by cases f <;> rfl)

@[simp] theorem Device.elapse_params (d : Device) (us : Nat) : (d.elapse us).params = d.params :=
  Device.ifPresent_keeps Device.params (by split <;> rfl)

@[simp] theorem Device.powerCycle_params (d : Device) (draw : Nat) : (d.powerCycle draw).params = d.params :=
  Device.ifPresent_keeps Device.params rfl

/-- The array keeps its bytes without power (10_state.md R38), and in a wait. -/
@[simp] theorem Device.powerCycle_array (d : Device) (draw : Nat) : (d.powerCycle draw).array = d.array :=
  Device.ifPresent_keeps Device.array rfl

@[simp] theorem Device.elapse_array (d : Device) (us : Nat) : (d.elapse us).array = d.array :=
  Device.ifPresent_keeps Device.array (by split <;> rfl)

@[simp] theorem Device.elapse_sr (d : Device) (us : Nat) : (d.elapse us).sr = d.sr :=
  Device.ifPresent_keeps Device.sr (by split <;> rfl)

/-! ## The driver's read and write -/

theorem checkRange_ok {addr : Word} {n : Nat} (h : rangeOk addr n = true) (s : State) : checkRange addr n s = .ok () s := by
  simp [checkRange, h]

theorem checkRange_raised {addr : Word} {n : Nat} (h : rangeOk addr n = false) (s : State) :
    checkRange addr n s = .stop (.raised .range) s := by
  simp [checkRange, h]

/-- The state after a completed read: the transaction's, with the captured bytes in `RX`. -/
theorem memRead_ok {addr : Word} {n : Nat} {s : State} (hr : rangeOk addr n = true) (hm : s.mishap = none) :
    memRead addr n s =
      .ok (capturedBytes (.read (busAddr addr) n) (s.dev.incoming s.draws (.read (busAddr addr) n)))
        { s.afterTxn (.read (busAddr addr) n) with
          regs := { s.regs with
            rx := some (capturedBytes (.read (busAddr addr) n) (s.dev.incoming s.draws (.read (busAddr addr) n))) } } := by
  unfold memRead
  rw [op_then_ok (checkRange_ok hr s), op_bind_ok (txn_ok hm _), op_then_ok (setRx_run _ _)]
  rfl

theorem memRead_raised {addr : Word} {n : Nat} {s : State} (hr : rangeOk addr n = false) :
    memRead addr n s = .stop (.raised .range) s := by
  unfold memRead
  rw [op_then_stop (checkRange_raised hr s)]

theorem writeEnable_ok {s : State} (hm : s.mishap = none) : writeEnable s = .ok () (s.afterTxn .wren) := by
  unfold writeEnable
  rw [op_then_ok (txn_ok hm _), op_pure]

/-- The state after a completed write: WREN's transaction, then WRITE's. -/
theorem memWrite_ok {addr : Word} {data : List Byte} {s : State} (hr : rangeOk addr data.length = true)
    (hm : s.mishap = none) :
    memWrite addr data s = .ok () ((s.afterTxn .wren).afterTxn (.write (busAddr addr) data)) := by
  unfold memWrite
  rw [op_then_ok (checkRange_ok hr s), op_then_ok (writeEnable_ok hm), op_then_ok (txn_ok (by simp [hm]) _), op_pure]

theorem memWrite_raised {addr : Word} {data : List Byte} {s : State} (hr : rangeOk addr data.length = false) :
    memWrite addr data s = .stop (.raised .range) s := by
  unfold memWrite
  rw [op_then_stop (checkRange_raised hr s)]

/-- The state after a completed status write: WREN's transaction, then WRSR's. -/
theorem writeStatus_ok {v : Byte} {s : State} (hm : s.mishap = none) :
    writeStatus v s = .ok () ((s.afterTxn .wren).afterTxn (.wrsr v)) := by
  unfold writeStatus
  rw [op_then_ok (writeEnable_ok hm), op_then_ok (txn_ok (by simp [hm]) _), op_pure]

/-- The state after a completed status read. -/
theorem readStatus_ok {s : State} (hm : s.mishap = none) :
    readStatus s =
      .ok ((capturedBytes .rdsr (s.dev.incoming s.draws .rdsr)).headD 0#8)
        { s.afterTxn .rdsr with
          regs := { s.regs with rx := some (capturedBytes .rdsr (s.dev.incoming s.draws .rdsr)) } } := by
  unfold readStatus
  rw [op_bind_ok (txn_ok hm _), op_then_ok (setRx_run _ _)]
  rfl

end Sys2Proof.Machine
end

