-- ==== Sys2Proof/Laws/Frames.lean ====
section
/-! SUPPORT. The state after each kind of transaction and after the driver's read, write and status operations, written
out field by field in the terms of Safety.lean, with no mishap armed; the bits of the status register; and the states of
the slots. -/

namespace Sys2Proof.Machine

/-! ## Status bits -/

theorem setWel_true (x : Byte) : setWel x true = x ||| 0x02#8 := rfl
theorem setWel_false (x : Byte) : setWel x false = x &&& 0xFD#8 := rfl
@[simp] theorem wel_set (x : Byte) : wel (x ||| 0x02#8) = true := by simp [wel]
@[simp] theorem srwd_set (x : Byte) : srwd (x ||| 0x02#8) = srwd x := by simp [srwd]
@[simp] theorem bp_set (x : Byte) : bp (x ||| 0x02#8) = bp x := by revert x; decide
@[simp] theorem isProtected_set (x : Byte) : isProtected (x ||| 0x02#8) = isProtected x := by
  funext a
  simp [isProtected]
@[simp] theorem set_clear (x : Byte) : (x ||| 0x02#8) &&& 0xFD#8 = x &&& 0xFD#8 := by revert x; decide

/-! ## Captured bytes -/

theorem oracleBytes_drop (d n k : Nat) : (oracleBytes d (n + k)).drop n = oracleBytes (d + n) k := by
  induction n generalizing d with
  | zero => simp
  | succ n ih =>
    rw [show n + 1 + k = (n + k) + 1 by omega]
    simp only [oracleBytes, List.drop_succ_cons, ih]
    congr 1
    omega

theorem read_bytes_length (addr : BusAddr) (n : Nat) : (Frame.read addr n).bytes.length = 4 + n := by
  simp [Frame.bytes, be3, zeros]
  omega

theorem write_bytes_length (addr : BusAddr) (l : List Byte) : (Frame.write addr l).bytes.length = 4 + l.length := by
  simp [Frame.bytes, be3]
  omega

/-- What a READ captures, of a device that answers and of one that does not. -/
theorem captured_read_eq (d : Device) (draw : Nat) (addr : BusAddr) (n : Nat) :
    capturedBytes (.read addr n) (d.incoming draw (.read addr n)) = d.seenBytes draw addr.toNat n := by
  cases h : d.answers with
  | true => rw [captured_read h]; simp [Device.seenBytes, h, Device.bytesAt]
  | false =>
    rw [Device.incoming_silent h, read_bytes_length, Device.seenBytes, h]
    exact oracleBytes_drop draw 4 n

/-- What RDSR captures, of a device that answers and of one that does not. -/
theorem captured_rdsr_eq (d : Device) (draw : Nat) :
    capturedBytes .rdsr (d.incoming draw .rdsr) = [d.seenStatus draw] := by
  cases h : d.answers with
  | true => rw [captured_rdsr h]; simp [Device.seenStatus, h]
  | false => simp [capturedBytes, Device.incoming, h, Device.seenStatus, Frame.bytes, oracleBytes]

@[simp] theorem Device.seenBytes_length (d : Device) (draws a n : Nat) : (d.seenBytes draws a n).length = n := by
  unfold Device.seenBytes Device.bytesAt
  split <;> simp

theorem Device.seenBytes_answers {d : Device} (h : d.answers = true) (draws a n : Nat) :
    d.seenBytes draws a n = d.bytesAt a n := by
  simp [Device.seenBytes, h]

/-- Of a sleeping or absent device a READ sees whatever the line carries, after the four command bytes. -/
theorem Device.seenBytes_silent {d : Device} (h : d.answers = false) (draws a n : Nat) :
    d.seenBytes draws a n = oracleBytes (draws + 4) n := by
  simp [Device.seenBytes, h]

theorem Device.seenStatus_answers {d : Device} (h : d.answers = true) (draws : Nat) : d.seenStatus draws = d.sr := by
  simp [Device.seenStatus, h]

/-- Of a sleeping or absent device RDSR sees whatever the line carries, after its opcode. -/
theorem Device.seenStatus_silent {d : Device} (h : d.answers = false) (draws : Nat) :
    d.seenStatus draws = Config.oracleByte (draws + 1) := by
  simp [Device.seenStatus, h]

/-! ## States after one transaction -/

theorem afterTxn_read {s : State} (hm : s.mishap = none) (addr : BusAddr) (n : Nat) :
    s.afterTxn (.read addr n) =
      { s with
        cs := false, seq := s.seq.advance (4 + n + 2), draws := s.draws + (4 + n)
        trace := s.trace ++ [.txn (0x03#8 :: (be3 addr ++ zeros n)) (s.dev.seenBytes s.draws addr.toNat n)] } := by
  unfold State.afterTxn
  rw [read_bytes_length, captured_read_eq, Device.apply_read, hm]
  rfl

theorem afterTxn_rdsr {s : State} (hm : s.mishap = none) :
    s.afterTxn .rdsr =
      { s with
        cs := false, seq := s.seq.advance 4, draws := s.draws + 2
        trace := s.trace ++ [.txn [0x05#8, 0x00#8] [s.dev.seenStatus s.draws]] } := by
  unfold State.afterTxn
  rw [captured_rdsr_eq, Device.apply_rdsr, hm]
  rfl

/-- After a frame that captures nothing. -/
theorem afterTxn_sendOnly {s : State} (hm : s.mishap = none) {f : Frame} (hc : ∀ rx, capturedBytes f rx = []) :
    s.afterTxn f =
      { s with
        cs := false, seq := s.seq.advance (f.bytes.length + 2), draws := s.draws + f.bytes.length
        dev := s.dev.apply s.wp f, trace := s.trace ++ [.txn f.bytes []] } := by
  unfold State.afterTxn
  rw [hc, hm]
  rfl

/-- The device after WREN and then WRITE: where the bytes land, and SR. -/
theorem apply_wren_write (d : Device) (wp : Bool) (addr : BusAddr) (data : List Byte) :
    ((d.apply wp .wren).apply wp (.write addr data)) =
      { d with
        array := if d.answers then Memory.writeRange (fun a => !isProtected d.sr a) d.array addr.toNat data else d.array
        sr := d.srAfterWrite } := by
  cases d with
  | mk sr asleep waking array params =>
    cases hp : params.present <;> cases asleep <;> cases h : params.welAutoClear <;>
      simp [Device.apply, Device.ifPresent, Device.answers, Device.writeArray, Device.welAfterWrite, Device.srAfterWrite,
        setWel, hp, h]

/-- The device after WREN and then WRSR. -/
theorem apply_wren_wrsr (d : Device) (wp : Bool) (v : Byte) :
    ((d.apply wp .wren).apply wp (.wrsr v)) = { d with sr := d.srAfterWrsr wp v } := by
  cases d with
  | mk sr asleep waking array params =>
    cases hp : params.present <;> cases asleep <;> cases h : params.welAutoClear <;> cases h2 : srwd sr <;>
      cases h3 : wp && params.wpWired <;>
      simp [Device.apply, Device.ifPresent, Device.answers, Device.writeStatus, Device.wpSeen, Device.welAfterWrite,
        Device.srAfterWrsr, setWel, hp, h, h2, h3]

/-- What the array reads as after WREN and then WRITE. -/
theorem read_written (d : Device) (base : Nat) (data : List Byte) (a : Nat) :
    Memory.read
        (if d.answers then Memory.writeRange (fun a => !isProtected d.sr a) d.array base data else d.array) a =
      if d.landsAt base data.length a = true then data.getD (a - base) 0#8 else Memory.read d.array a := by
  cases h : d.answers with
  | false => simp [Device.landsAt, h]
  | true => simp [Device.landsAt, h, Memory.read_writeRange, and_assoc]

/-! ## The driver's operations, written out -/

theorem rangeOk_iff (addr : Word) (n : Nat) : rangeOk addr n = true ↔ addr.toNat + n ≤ 0x80000 := by
  unfold rangeOk Config.deviceCapacity
  exact decide_eq_true_iff

theorem rangeOk_false_iff (addr : Word) (n : Nat) : rangeOk addr n = false ↔ 0x80000 < addr.toNat + n := by
  rw [← Bool.not_eq_true, rangeOk_iff, not_le]

theorem busAddr_toNat {addr : Word} (h : addr.toNat ≤ 0x80000) : (busAddr addr).toNat = addr.toNat := by
  simp [busAddr]
  omega

theorem memRead_explicit {s : State} (hm : s.mishap = none) {addr : Word} {n : Nat}
    (hr : addr.toNat + n ≤ 0x80000) :
    memRead addr n s =
      .ok (s.dev.seenBytes s.draws addr.toNat n)
        { s with
          cs := false, seq := s.seq.advance (4 + n + 2), draws := s.draws + (4 + n)
          regs := { s.regs with rx := some (s.dev.seenBytes s.draws addr.toNat n) }
          trace := s.trace ++
            [.txn (0x03#8 :: (be3 (busAddr addr) ++ zeros n)) (s.dev.seenBytes s.draws addr.toNat n)] } := by
  rw [memRead_ok ((rangeOk_iff _ _).2 hr) hm, captured_read_eq, afterTxn_read hm, busAddr_toNat (by omega)]

theorem memWrite_explicit {s : State} (hm : s.mishap = none) {addr : Word} {data : List Byte}
    (hr : addr.toNat + data.length ≤ 0x80000) :
    memWrite addr data s =
      .ok ()
        { s with
          cs := false, seq := (s.seq.advance 3).advance (4 + data.length + 2)
          draws := s.draws + 1 + (4 + data.length)
          dev :=
            { s.dev with
              array :=
                if s.dev.answers then Memory.writeRange (fun a => !isProtected s.dev.sr a) s.dev.array addr.toNat data
                else s.dev.array
              sr := s.dev.srAfterWrite }
          trace := s.trace ++ [.txn [0x06#8] [], .txn (0x02#8 :: (be3 (busAddr addr) ++ data)) []] } := by
  rw [memWrite_ok ((rangeOk_iff _ _).2 hr) hm, afterTxn_sendOnly (f := .write _ _) (by simp [hm]) (fun _ => rfl),
    afterTxn_sendOnly (f := .wren) hm (fun _ => rfl), write_bytes_length]
  simp only [apply_wren_write, busAddr_toNat (show addr.toNat ≤ 0x80000 by omega), List.append_assoc]
  rfl

theorem writeStatus_explicit {s : State} (hm : s.mishap = none) (v : Byte) :
    writeStatus v s =
      .ok ()
        { s with
          cs := false, seq := (s.seq.advance 3).advance 4, draws := s.draws + 1 + 2
          dev := { s.dev with sr := s.dev.srAfterWrsr s.wp v }
          trace := s.trace ++ [.txn [0x06#8] [], .txn [0x01#8, v] []] } := by
  rw [writeStatus_ok hm, afterTxn_sendOnly (f := .wrsr _) (by simp [hm]) (fun _ => rfl),
    afterTxn_sendOnly (f := .wren) hm (fun _ => rfl)]
  simp only [apply_wren_wrsr, List.append_assoc]
  rfl

theorem readStatus_explicit {s : State} (hm : s.mishap = none) :
    readStatus s =
      .ok (s.dev.seenStatus s.draws)
        { s with
          cs := false, seq := s.seq.advance 4, draws := s.draws + 2
          regs := { s.regs with rx := some [s.dev.seenStatus s.draws] }
          trace := s.trace ++ [.txn [0x05#8, 0x00#8] [s.dev.seenStatus s.draws]] } := by
  rw [readStatus_ok hm, captured_rdsr_eq, afterTxn_rdsr hm]
  rfl

/-! ## The states of the slots (43_store.md R211) -/

theorem beginHalf_run (x : Slot) (p : List Byte) (s : State) :
    beginHalf x p s =
      .ok () (s.setUnfinished x (some { header := s.dev.bytesAt (hdrOff x) Config.headerSize, payload := p })) := rfl

theorem endHalf_run (x : Slot) (s : State) : endHalf x s = .ok () (s.setUnfinished x none) := rfl

/-- A slot in which nothing is unfinished is what its bytes say. -/
theorem slotState_finished {s : State} {x : Slot} (h : s.unfinished x = none) : s.slotState x = s.dev.slotState x := by
  simp [State.slotState, State.transient, h]

/-- Exactly an unfinished slot that still holds the new payload under the old header is transient. -/
theorem slotState_transient {s : State} {x : Slot} :
    s.slotState x = .transient ↔
      ∃ u, s.unfinished x = some u ∧ s.dev.bytesAt (hdrOff x) Config.headerSize = u.header ∧
        s.dev.payload x = u.payload := by
  have hb : s.dev.slotState x ≠ .transient := by
    unfold Device.slotState
    split <;> simp
  unfold State.slotState State.transient
  cases h : s.unfinished x <;> simp [hb]

/-- The state of a slot depends on its header and payload bytes and on what is unfinished there, on nothing else. -/
theorem slotState_congr {s t : State} {x : Slot} (hu : t.unfinished x = s.unfinished x)
    (hh : t.dev.bytesAt (hdrOff x) Config.headerSize = s.dev.bytesAt (hdrOff x) Config.headerSize)
    (hp : t.dev.payload x = s.dev.payload x) : t.slotState x = s.slotState x := by
  unfold State.slotState State.transient Device.slotState Device.header
  rw [hu, hh, hp]

end Sys2Proof.Machine
end

