-- ==== Sys2Proof/Laws/PerInstr.lean ====
section
/-! SUPPORT. Statements made per instruction: the byte each instruction's encoding begins with is its row's of
opcode_table.json. -/

namespace Sys2Proof.Laws.OpcodeByte

/-- The byte that a row of opcode_table.json matches (30_encoding.md R82, R91). -/
def tableByte : Instr → Byte
  | .wrsr _ => 0x01#8
  | .write _ _ => 0x02#8
  | .read _ _ => 0x03#8
  | .wrdi => 0x04#8
  | .rdsr => 0x05#8
  | .wren => 0x06#8
  | .wake => 0xAB#8
  | .sleep => 0xB9#8
  | .drvRead _ _ => 0x01#8
  | .drvWrite _ _ => 0x02#8
  | .drvRdsr => 0x03#8
  | .drvWrsr _ => 0x04#8
  | .drvWren => 0x05#8
  | .drvWrdi => 0x06#8
  | .drvSleep => 0x07#8
  | .drvWake => 0x08#8
  | .drvSetBp _ => 0x09#8
  | .crc32 _ => 0x10#8
  | .recEncode _ => 0x11#8
  | .recDecode _ => 0x12#8
  | .hdrValidate _ => 0x13#8
  | .hdrEncode _ _ => 0x14#8
  | .storeWrite _ => 0x20#8
  | .storeRead => 0x21#8

/-- The first byte of a code: a request's operation code, or a frame's first byte. -/
def firstByte : Code → Option Byte
  | .request r => some r.op
  | .frame bytes => bytes.head?

/-- The encoding of the instruction begins with its row's byte. -/
def Statement (i : Instr) : Prop := firstByte (encode i) = some (tableByte i)

theorem wrsr (v : Byte) : Statement (.wrsr v) := rfl
theorem write (addr : BusAddr) (data : List Byte) : Statement (.write addr data) := rfl
theorem read (addr : BusAddr) (n : Nat) : Statement (.read addr n) := rfl
theorem wrdi : Statement .wrdi := rfl
theorem rdsr : Statement .rdsr := rfl
theorem wren : Statement .wren := rfl
theorem wake : Statement .wake := rfl
theorem sleep : Statement .sleep := rfl
theorem drvRead (addr n : Word) : Statement (.drvRead addr n) := rfl
theorem drvWrite (addr : Word) (data : List Byte) : Statement (.drvWrite addr data) := rfl
theorem drvRdsr : Statement .drvRdsr := rfl
theorem drvWrsr (v : Byte) : Statement (.drvWrsr v) := rfl
theorem drvWren : Statement .drvWren := rfl
theorem drvWrdi : Statement .drvWrdi := rfl
theorem drvSleep : Statement .drvSleep := rfl
theorem drvWake : Statement .drvWake := rfl
theorem drvSetBp (cfg : Byte) : Statement (.drvSetBp cfg) := rfl
theorem crc32 (data : List Byte) : Statement (.crc32 data) := rfl
theorem recEncode (r : Bureau) : Statement (.recEncode r) := rfl
theorem recDecode (b : List Byte) : Statement (.recDecode b) := rfl
theorem hdrValidate (h : List Byte) : Statement (.hdrValidate h) := rfl
theorem hdrEncode (crc : Word) (seqno : DWord) : Statement (.hdrEncode crc seqno) := rfl
theorem storeWrite (r : Bureau) : Statement (.storeWrite r) := rfl
theorem storeRead : Statement .storeRead := rfl

end Sys2Proof.Laws.OpcodeByte
end

