-- ==== Sys2Proof/Laws/Triple.lean ====
section
/-! SUPPORT. Triples over the bodies of operations: from a state with P, a normal end gives Q of its value and state, and
an early end gives E of its reason and state. One rule for each way a body is built, one for each bus primitive. -/

namespace Sys2Proof.Machine

/-- From P, the body ends normally with Q or early with E. -/
def Op.Triple {α : Type} (P : State → Prop) (x : Op α) (Q : α → State → Prop) (E : Stop → State → Prop) : Prop :=
  ∀ s, P s → match x s with
    | .ok a t => Q a t
    | .stop e t => E e t

theorem triple_ok {α : Type} {P : State → Prop} {x : Op α} {Q : α → State → Prop} {E : Stop → State → Prop}
    (h : Op.Triple P x Q E) {s t : State} {a : α} (hp : P s) (hx : x s = .ok a t) : Q a t := by
  have := h s hp
  rwa [hx] at this

theorem triple_stop {α : Type} {P : State → Prop} {x : Op α} {Q : α → State → Prop} {E : Stop → State → Prop}
    (h : Op.Triple P x Q E) {s t : State} {e : Stop} (hp : P s) (hx : x s = .stop e t) : E e t := by
  have := h s hp
  rwa [hx] at this

theorem triple_weaken {α : Type} {P P' : State → Prop} {x : Op α} {Q Q' : α → State → Prop} {E E' : Stop → State → Prop}
    (h : Op.Triple P x Q E) (hP : ∀ s, P' s → P s) (hQ : ∀ a t, Q a t → Q' a t) (hE : ∀ e t, E e t → E' e t) :
    Op.Triple P' x Q' E' := by
  intro s hp
  have := h s (hP s hp)
  split <;> simp_all

theorem triple_pure {α : Type} {a : α} {P : State → Prop} {Q : α → State → Prop} {E : Stop → State → Prop}
    (h : ∀ s, P s → Q a s) : Op.Triple P (Op.pure a) Q E := h

theorem triple_bind {α β : Type} {P : State → Prop} {x : Op α} {f : α → Op β} {R : α → State → Prop}
    {Q : β → State → Prop} {E : Stop → State → Prop} (hx : Op.Triple P x R E) (hf : ∀ a, Op.Triple (R a) (f a) Q E) :
    Op.Triple P (Op.bind x f) Q E := by
  intro s hp
  have h := hx s hp
  cases hxs : x s with
  | ok a t =>
    rw [hxs] at h
    rw [op_bind_ok hxs]
    exact hf a t h
  | stop e t =>
    rw [hxs] at h
    rw [op_bind_stop hxs]
    exact h

theorem triple_then {α β : Type} {P R : State → Prop} {x : Op α} {y : Op β} {Q : β → State → Prop}
    {E : Stop → State → Prop} (hx : Op.Triple P x (fun _ => R) E) (hy : Op.Triple R y Q E) :
    Op.Triple P (Op.andThen x y) Q E := triple_bind hx (fun _ => hy)

theorem triple_raise {α : Type} {c : ResultCode} {P : State → Prop} {Q : α → State → Prop} {E : Stop → State → Prop}
    (h : ∀ s, P s → E (.raised c) s) : Op.Triple P (raise c) Q E := h

/-- Reading a register that is known to hold a value. -/
theorem triple_readReg {α : Type} {n : WorkReg} {get : WorkRegs → Option α} {P : State → Prop} {Q : α → State → Prop}
    {E : Stop → State → Prop} (h : ∀ s, P s → ∃ v, get s.regs = some v ∧ Q v s) : Op.Triple P (readReg n get) Q E := by
  intro s hp
  obtain ⟨v, hv, hq⟩ := h s hp
  rw [readReg_some hv]
  exact hq

theorem triple_writeRegs {upd : WorkRegs → WorkRegs} {P : State → Prop} {Q : Unit → State → Prop}
    {E : Stop → State → Prop} (h : ∀ s, P s → Q () { s with regs := upd s.regs }) : Op.Triple P (writeRegs upd) Q E := h

/-- A transaction completes, or a mishap happens inside it. -/
theorem triple_txn {f : Frame} {P : State → Prop} {Q : List Byte → State → Prop} {E : Stop → State → Prop}
    (hok : ∀ s, P s → (∀ m, s.mishap = some m → m.firesIn f.bytes.length = none) →
      Q (capturedBytes f (s.dev.incoming s.draws f)) (s.afterTxn f))
    (hstop : ∀ s m done, P s → s.mishap = some m → m.firesIn f.bytes.length = some done →
      E .abandoned ((s.cutTxn f done).struck m.kind)) :
    Op.Triple P (txn f) Q E := by
  intro s hp
  rcases txn_cases f s with ⟨h, hn⟩ | ⟨m, done, hm, hf, h⟩
  · rw [h]
    exact hok s hp hn
  · rw [h]
    exact hstop s m done hp hm hf

/-- A single bus action is done, or a mishap happens instead of it. -/
theorem triple_action {ev : BusEvent} {upd : State → State} {P : State → Prop} {Q : Unit → State → Prop}
    {E : Stop → State → Prop} (hok : ∀ s, P s → (∀ m, s.mishap = some m → m.firesNow = false) →
      Q () ((upd s).afterAction ev))
    (hstop : ∀ s m, P s → s.mishap = some m → m.firesNow = true →
      E .abandoned ({ s with mishap := none : State }.struck m.kind)) :
    Op.Triple P (action ev upd) Q E := by
  intro s hp
  rcases action_cases ev upd s with ⟨h, hn⟩ | ⟨m, hm, hf, h⟩
  · rw [h]
    exact hok s hp hn
  · rw [h]
    exact hstop s m hp hm hf

theorem triple_checkRange {addr : Word} {n : Nat} {P : State → Prop} {Q : Unit → State → Prop} {E : Stop → State → Prop}
    (hok : ∀ s, P s → rangeOk addr n = true → Q () s) (hstop : ∀ s, P s → rangeOk addr n = false → E (.raised .range) s) :
    Op.Triple P (checkRange addr n) Q E := by
  intro s hp
  cases h : rangeOk addr n with
  | true =>
    rw [checkRange_ok h]
    exact hok s hp h
  | false =>
    rw [checkRange_raised h]
    exact hstop s hp h

/-- The next state of a host operation, from a triple of its body. -/
theorem triple_hostOp {i : Instr} {body : Op RespData} {s u : State} {Q : RespData → State → Prop}
    {E : Stop → State → Prop} (h : hostOp i body s = .next u)
    (hb : Op.Triple (fun t => t = s.accept i) body Q E) :
    s.seq = .idle ∧
      ((i.wellFormed = false ∧ u = s.illegalOp) ∨
        (i.wellFormed = true ∧
          ((∃ d t, Q d t ∧ u = t.respond (Response.success d)) ∨
            (∃ c t, E (.raised c) t ∧ u = t.respond (Response.failure c)) ∨ E .abandoned u))) := by
  obtain ⟨hi, h⟩ := hostOp_next h
  refine ⟨hi, h.imp_right fun ⟨hw, h⟩ => ⟨hw, ?_⟩⟩
  rcases h with ⟨d, t, hx, hu⟩ | ⟨c, t, hx, hu⟩ | hx
  · exact .inl ⟨d, t, triple_ok hb rfl hx, hu⟩
  · exact .inr (.inl ⟨c, t, triple_stop hb rfl hx, hu⟩)
  · exact .inr (.inr (triple_stop hb rfl hx))

end Sys2Proof.Machine
end

