-- ==== Sys2Proof/Tests/Slice0.lean ====
section
/-! SUPPORT. Tests. Expected results are those of 95_test_vectors.md (named in each comment) or worked by hand from the
rule named; none is this model's own answer. Then, for each statement of Certificates/Slice0 with hypotheses, one
theorem showing them met together. -/

namespace Sys2Proof.Machine.Tests

set_option Elab.async false

/-! ## Helpers -/

/-- Cells holding the bytes of a list from an address upward. -/
def cells : Nat → List Byte → Memory
  | _, [] => []
  | a, b :: bs => (a, b) :: cells (a + 1) bs

/-- A device that is there, awake, with the given status register and the bytes of the two slots. -/
def device (sr : Byte) (slotA slotB : List Byte) : Device :=
  { sr := sr, asleep := false, waking := false, array := cells 0 slotA ++ cells 256 slotB
    params := { welAutoClear := false, srWritableMask := 0x8C#8, wpWired := true, present := true } }

/-- A machine just reset, bound to that device. -/
def machine (sr : Byte) (slotA slotB : List Byte) : State := State.resetWith (device sr slotA slotB)

/-- A store whose two headers are invalid. -/
def emptyStore : State := machine 0x00#8 (zeros 44) (zeros 44)

/-- 0x42F60000, binary32 123.0. -/
def rec1 : Bureau := { progQty := 1#64, mathQty := 10#32, headQty := 2#8, salaryBits := 0x42F60000#32 }
/-- 0x42040000, binary32 33.0. -/
def rec3 : Bureau := { progQty := 3#64, mathQty := 30#32, headQty := 4#8, salaryBits := 0x42040000#32 }

/-- V-COD-1: the payload of `rec1`. -/
def pay1 : List Byte :=
  [0x01#8, 0x00#8, 0x00#8, 0x00#8, 0x00#8, 0x00#8, 0x00#8, 0x00#8, 0x0A#8, 0x00#8, 0x00#8, 0x00#8, 0x02#8, 0x00#8,
   0x00#8, 0x00#8, 0x00#8, 0x00#8, 0xF6#8, 0x42#8]
/-- V-HDR-1: the header with CRC 0x18942950 and sequence number 1. -/
def hdr1 : List Byte :=
  [0x42#8, 0x55#8, 0x52#8, 0x45#8, 0x01#8, 0x00#8, 0x00#8, 0x00#8, 0x14#8, 0x00#8, 0x00#8, 0x00#8, 0x50#8, 0x29#8,
   0x94#8, 0x18#8, 0x01#8, 0x00#8, 0x00#8, 0x00#8, 0x00#8, 0x00#8, 0x00#8, 0x00#8]
/-- V-HDR-1 with its sequence number 2^64 - 1. -/
def hdrMax : List Byte := hdr1.take 16 ++ List.replicate 8 0xFF#8
/-- V-HDR-1 with its sequence number 0. -/
def hdrZero : List Byte := hdr1.take 16 ++ zeros 8

/-- A store with `rec1` in slot A, sequence number 1, and slot B empty. -/
def oneRecord : State := machine 0x00#8 (hdr1 ++ pay1) (zeros 44)

/-- A machine just reset with no device on its bus. -/
def noDevice : State :=
  State.resetWith { oneRecord.dev with params := { oneRecord.dev.params with present := false } }

/-- What a field of the next state is, if there is one. -/
def after {α : Type} (o : Host.Outcome State Fault Refusal) (f : State → α) : Option α :=
  match o with
  | .next t => some (f t)
  | .fault _ => none
  | .refused _ => none

/-! ## Ill-formed terms -/

/-- R51: the last byte would be 0x80000. -/
theorem test_wf_read_outside : (Instr.read 0x7FFFF#24 2).wellFormed = false := by decide +kernel
/-- R51. -/
theorem test_wf_write_outside : (Instr.write 0x7FFFF#24 [0#8, 0#8]).wellFormed = false := by decide +kernel
/-- R93. -/
theorem test_wf_reserved_cfg : (Instr.drvSetBp 0x08#8).wellFormed = false := by decide +kernel
/-- V-COD-9. -/
theorem test_wf_payload_length : (Instr.recDecode (zeros 19)).wellFormed = false := by decide +kernel
/-- V-HDR-15. -/
theorem test_wf_header_length : (Instr.hdrValidate (zeros 23)).wellFormed = false := by decide +kernel
/-- R95: a byte list of 2^32 bytes is too long. -/
theorem test_wf_list_length : (Instr.crc32 (List.replicate (2 ^ 32) 0#8)).wellFormed = false := by
  simp only [Instr.wellFormed, lengthFits, List.length_replicate]
  decide
/-- R95. -/
theorem test_wf_data_length : (Instr.drvWrite 0#32 (List.replicate (2 ^ 32) 0#8)).wellFormed = false := by
  simp only [Instr.wellFormed, lengthFits, List.length_replicate]
  decide

/-! ## Decoding, one code for every constructor (R82, R83, R91) -/

theorem test_decode_wrsr :
    decode (.frame [0x01#8, 0x8A#8]) = .ok (.wrsr 0x8A#8) := by decide +kernel
theorem test_decode_write :
    decode (.frame [0x02#8, 0x01#8, 0x02#8, 0x03#8, 0xAA#8]) = .ok (.write 0x010203#24 [0xAA#8]) := by decide +kernel
theorem test_decode_read :
    decode (.frame [0x03#8, 0x07#8, 0xFF#8, 0xFE#8, 0x00#8]) = .ok (.read 0x07FFFE#24 1) := by decide +kernel
theorem test_decode_wrdi :
    decode (.frame [0x04#8]) = .ok (.wrdi) := by decide +kernel
theorem test_decode_rdsr :
    decode (.frame [0x05#8, 0x00#8]) = .ok (.rdsr) := by decide +kernel
theorem test_decode_wren :
    decode (.frame [0x06#8]) = .ok (.wren) := by decide +kernel
theorem test_decode_wake :
    decode (.frame [0xAB#8]) = .ok (.wake) := by decide +kernel
theorem test_decode_sleep :
    decode (.frame [0xB9#8]) = .ok (.sleep) := by decide +kernel
theorem test_decode_drvRead :
    decode (.request { op := 0x01#8, operands := .addrLen 0x18#32 4#32 }) = .ok (.drvRead 0x18#32 4#32) := by decide +kernel
theorem test_decode_drvWrite :
    decode (.request { op := 0x02#8, operands := .addrData 0x100#32 [0xAA#8] }) = .ok (.drvWrite 0x100#32 [0xAA#8]) := by decide +kernel
theorem test_decode_drvRdsr :
    decode (.request { op := 0x03#8, operands := .none }) = .ok (.drvRdsr) := by decide +kernel
theorem test_decode_drvWrsr :
    decode (.request { op := 0x04#8, operands := .byte 0x08#8 }) = .ok (.drvWrsr 0x08#8) := by decide +kernel
theorem test_decode_drvWren :
    decode (.request { op := 0x05#8, operands := .none }) = .ok (.drvWren) := by decide +kernel
theorem test_decode_drvWrdi :
    decode (.request { op := 0x06#8, operands := .none }) = .ok (.drvWrdi) := by decide +kernel
theorem test_decode_drvSleep :
    decode (.request { op := 0x07#8, operands := .none }) = .ok (.drvSleep) := by decide +kernel
theorem test_decode_drvWake :
    decode (.request { op := 0x08#8, operands := .none }) = .ok (.drvWake) := by decide +kernel
theorem test_decode_drvSetBp :
    decode (.request { op := 0x09#8, operands := .byte 0x06#8 }) = .ok (.drvSetBp 0x06#8) := by decide +kernel
theorem test_decode_crc32 :
    decode (.request { op := 0x10#8, operands := .bytes [0x61#8] }) = .ok (.crc32 [0x61#8]) := by decide +kernel
theorem test_decode_recEncode :
    decode (.request { op := 0x11#8, operands := .bureau rec1 }) = .ok (.recEncode rec1) := by decide +kernel
theorem test_decode_recDecode :
    decode (.request { op := 0x12#8, operands := .bytes pay1 }) = .ok (.recDecode pay1) := by decide +kernel
theorem test_decode_hdrValidate :
    decode (.request { op := 0x13#8, operands := .bytes hdr1 }) = .ok (.hdrValidate hdr1) := by decide +kernel
theorem test_decode_hdrEncode :
    decode (.request { op := 0x14#8, operands := .crcSeq 5#32 6#64 }) = .ok (.hdrEncode 5#32 6#64) := by decide +kernel
theorem test_decode_storeWrite :
    decode (.request { op := 0x20#8, operands := .bureau rec1 }) = .ok (.storeWrite rec1) := by decide +kernel
theorem test_decode_storeRead :
    decode (.request { op := 0x21#8, operands := .none }) = .ok (.storeRead) := by decide +kernel

/-- R87: 0x9F is no command the block sends. -/
theorem test_decode_foreign_frame : decode (.frame [0x9F#8]) = .error (.notSentByBlock [0x9F#8]) := by decide +kernel
/-- R83: the byte sent while the status is read is 0x00. -/
theorem test_decode_rdsr_dummy : decode (.frame [0x05#8, 0x01#8]) = .error (.notSentByBlock [0x05#8, 0x01#8]) := by
  decide +kernel
/-- V-DRV-16. -/
theorem test_decode_unassigned : decode (.request { op := 0x0A#8, operands := .none }) = .error (.unassignedOp 0x0A#8) := by
  decide +kernel

/-! ## Meanings -/

/-- V-DRV-1. -/
theorem test_drvRead_trace :
    after (exec (.drvRead 0x18#32 4#32) oneRecord) State.trace =
      some [.txn [0x03#8, 0x00#8, 0x00#8, 0x18#8, 0x00#8, 0x00#8, 0x00#8, 0x00#8] [0x01#8, 0x00#8, 0x00#8, 0x00#8]] := by
  decide +kernel
/-- V-DRV-4. -/
theorem test_drvRead_range :
    after (exec (.drvRead 0x7FFFF#32 2#32) oneRecord) State.response = some (some { result := 0x01#8, data := .empty }) := by
  decide +kernel
/-- V-DRV-2, and the bytes read back (R85). -/
theorem test_drvWrite_bytes :
    after (exec (.drvWrite 0x100#32 [0xAA#8, 0x55#8]) oneRecord) (fun t => (t.dev.bytesAt 0x100 2, t.trace)) =
      some ([0xAA#8, 0x55#8], [.txn [0x06#8] [], .txn [0x02#8, 0x00#8, 0x01#8, 0x00#8, 0xAA#8, 0x55#8] []]) := by
  decide +kernel
/-- R277: with protection All the bytes do not land. -/
theorem test_drvWrite_protected :
    after (exec (.drvWrite 0x100#32 [0xAA#8]) (machine 0x0C#8 (zeros 44) (zeros 44))) (fun t => t.dev.bytesAt 0x100 1) =
      some [0x00#8] := by
  decide +kernel
/-- V-DRV-10. -/
theorem test_drvRdsr :
    after (exec .drvRdsr (machine 0x0E#8 [] [])) State.response = some (some { result := 0x00#8, data := .status 0x0E#8 }) := by
  decide +kernel
/-- V-DRV-11, with the writable bits SRWD, BP1, BP0 (D20(c)). -/
theorem test_drvWrsr :
    after (exec (.drvWrsr 0xFF#8) (machine 0x00#8 [] [])) (fun t => (t.dev.sr, t.trace)) =
      some (0x8E#8, [.txn [0x06#8] [], .txn [0x01#8, 0xFF#8] []]) := by
  decide +kernel
/-- V-DRV-12. -/
theorem test_drvWren : after (exec .drvWren emptyStore) (fun t => t.dev.sr) = some 0x02#8 := by decide +kernel
/-- V-DRV-13. -/
theorem test_drvWrdi : after (exec .drvWrdi (machine 0x0E#8 [] [])) (fun t => t.dev.sr) = some 0x0C#8 := by decide +kernel
/-- V-DRV-14. -/
theorem test_drvSleep :
    after (exec .drvSleep emptyStore) (fun t => (t.dev.asleep, t.trace)) = some (true, [.txn [0xB9#8] [], .delay 3]) := by
  decide +kernel
/-- V-DRV-15. -/
theorem test_drvWake :
    after (exec .drvWake { emptyStore with dev := { emptyStore.dev with asleep := true } })
        (fun t => (t.dev.asleep, t.trace)) =
      some (false, [.txn [0xAB#8] [], .delay 400]) := by
  decide +kernel
/-- R115: RDSR of an absent device sends its frame and answers what the line carried after it, also after DRV_WAKE. -/
theorem test_drvRdsr_absent :
    after (exec .drvRdsr noDevice) State.response =
        some (some { result := 0x00#8, data := .status (Config.oracleByte 1) }) ∧
      after (exec .drvWake noDevice) (fun t => (after (exec .drvRdsr t) State.response, t.dev)) =
        some (some (some { result := 0x00#8, data := .status (Config.oracleByte 2) }), noDevice.dev) :=
  ⟨rfl, rfl⟩
/-- V-BP-3. -/
theorem test_drvSetBp_lock :
    after (exec (.drvSetBp 0x06#8) (machine 0x02#8 [] [])) (fun t => (t.wp, t.trace)) =
      some (true, [.txn [0x05#8, 0x00#8] [0x02#8], .setWp true, .txn [0x06#8] [], .txn [0x01#8, 0x8A#8] []]) := by
  decide +kernel
/-- V-BP-5. -/
theorem test_drvSetBp_all :
    after (exec (.drvSetBp 0x03#8) (machine 0x73#8 [] [])) (fun t => (t.wp, t.regs.srTmp)) = some (false, some 0x7F#8) := by
  decide +kernel
/-- V-CRC-5. -/
theorem test_crc32_check :
    after (exec (.crc32 [0x31#8, 0x32#8, 0x33#8, 0x34#8, 0x35#8, 0x36#8, 0x37#8, 0x38#8, 0x39#8]) emptyStore)
        State.response =
      some (some { result := 0x00#8, data := .crc 0xCBF43926#32 }) := by
  decide +kernel
/-- V-CRC-9. -/
theorem test_crc32_payload : Machine.crc32 pay1 = 0x18942950#32 := by decide +kernel
/-- V-COD-1. -/
theorem test_recEncode :
    after (exec (.recEncode rec1) emptyStore) State.response = some (some { result := 0x00#8, data := .bytes pay1 }) := by
  decide +kernel
/-- V-COD-7: byte 13 is not read. -/
theorem test_recDecode_reserved :
    after (exec (.recDecode (pay1.set 13 0xAA#8)) emptyStore) State.response =
      some (some { result := 0x00#8, data := .bureau rec1 }) := by
  decide +kernel
/-- V-HDR-12: the reserved field is not checked. -/
theorem test_hdrValidate_reserved :
    after (exec (.hdrValidate ((hdr1.set 6 0xFF#8).set 7 0xFF#8)) emptyStore) State.response =
      some (some
        { result := 0x00#8
          data := .validity 1#8 (some
            { magic := 0x45525542#32, version := 1#16, reserved := 0xFFFF#16, length := 20#32, crc32 := 0x18942950#32
              seqno := 1#64 }) }) := by
  decide +kernel
/-- V-HDR-11. -/
theorem test_hdrValidate_length :
    after (exec (.hdrValidate (hdr1.set 8 0x15#8)) emptyStore) State.response =
      some (some { result := 0x00#8, data := .validity 0#8 none }) := by
  decide +kernel
/-- V-HDR-1. -/
theorem test_hdrEncode :
    after (exec (.hdrEncode 0x18942950#32 1#64) emptyStore) State.response =
      some (some { result := 0x00#8, data := .bytes hdr1 }) := by
  decide +kernel
/-- V-ST-2. -/
theorem test_storeWrite_first :
    after (exec (.storeWrite rec1) emptyStore) (fun t => (t.response, t.dev.bytesAt 0 44)) =
      some (some { result := 0x00#8, data := .seqno 1#64 }, hdr1 ++ pay1) := by
  decide +kernel
/-- V-SEQ-2: with A at 1 and B invalid the write goes to B with 2; A is unchanged. -/
theorem test_storeWrite_second :
    after (exec (.storeWrite rec3) oneRecord) (fun t => (t.dev.bytesAt 0 44, t.slotState .B)) =
      some (hdr1 ++ pay1, .written 2#64 true) := by
  decide +kernel
/-- V-ST-1. -/
theorem test_storeRead_empty :
    after (exec .storeRead emptyStore) State.response = some (some { result := 0x04#8, data := .empty }) := by
  decide +kernel
/-- R208, with a payload byte changed R207. -/
theorem test_storeRead_integrity :
    after (exec .storeRead oneRecord) State.response = some (some { result := 0x00#8, data := .record rec1 1#64 }) ∧
      after (exec .storeRead (machine 0x00#8 (hdr1 ++ pay1.set 0 0x02#8) (zeros 44))) State.response =
        some (some { result := 0x03#8, data := .empty }) := by
  decide +kernel
/-- R83, D20(e): WRITE without WEL stores nothing. -/
theorem test_write_without_wel :
    after (exec (.write 0x100#24 [0xAA#8]) emptyStore) (fun t => t.dev.bytesAt 0x100 1) = some [0x00#8] := by
  decide +kernel
/-- R83: with WEL it stores. -/
theorem test_write_with_wel :
    after (exec (.write 0x100#24 [0xAA#8]) (machine 0x02#8 (zeros 44) (zeros 44))) (fun t => t.dev.bytesAt 0x100 1) =
      some [0xAA#8] := by
  decide +kernel
/-- R85. -/
theorem test_read_captures : after (exec (.read 0x000018#24 2) oneRecord) (fun t => t.regs.rx) = some (some [0x01#8, 0x00#8]) := by
  decide +kernel
/-- R35, D20(c): with SRWD set and WP asserted WRSR changes nothing. -/
theorem test_wrsr_locked :
    after (exec (.wrsr 0x00#8) { machine 0x8E#8 [] [] with wp := true }) (fun t => t.dev.sr) = some 0x8E#8 := by
  decide +kernel
/-- R83. -/
theorem test_wrsr_open : after (exec (.wrsr 0x0C#8) (machine 0x02#8 [] [])) (fun t => t.dev.sr) = some 0x0E#8 := by
  decide +kernel
/-- R33. -/
theorem test_wren_wrdi :
    after (exec .wren emptyStore) (fun t => t.dev.sr) = some 0x02#8 ∧
      after (exec .wrdi (machine 0xFF#8 [] [])) (fun t => t.dev.sr) = some 0xFD#8 := by
  decide +kernel
/-- R83: RDSR captures one byte. -/
theorem test_rdsr : after (exec .rdsr (machine 0x5A#8 [] [])) (fun t => t.regs.rx) = some (some [0x5A#8]) := by decide +kernel
/-- R39, R121: WAKE alone does not end sleep before its wait. -/
theorem test_sleep_wake :
    after (exec .sleep emptyStore) (fun t => t.dev.asleep) = some true ∧
      after (exec .wake { emptyStore with dev := { emptyStore.dev with asleep := true } })
        (fun t => (t.dev.asleep, t.dev.waking)) = some (true, true) := by
  decide +kernel
/-- R71: an operation is not accepted while another is in progress. -/
theorem test_busy : exec .drvRdsr { emptyStore with seq := .busy .storeRead 3 } = .refused .requestWhileBusy := rfl
/-- R29: no response before the first operation has ended. -/
theorem test_no_response : State.readResponse State.reset = .error .noResponse := rfl
/-- A table word runs as the first instruction after reset: CRC32 of the empty list is 0 (V-CRC-1). -/
theorem test_table_word_runs :
    after (step (State.reset.withFetchWord 8 0x10)) State.response =
      some (some { result := 0x00#8, data := .crc 0x00000000#32 }) := by
  decide +kernel

/-! ## The hypotheses of each statement, met together -/

theorem witness_EncodeThenDecodeIsIdentity :
    (Instr.write 0x07FFFF#24 [0xAA#8]).wellFormed = true ∧ (Instr.drvSetBp 0x07#8).wellFormed = true := by decide +kernel
theorem witness_DecodedCodesAreEncodings :
    decode (.frame [0x02#8, 0x07#8, 0xFF#8, 0xFF#8, 0xAA#8]) = .ok (.write 0x07FFFF#24 [0xAA#8]) := by decide +kernel
theorem witness_UnassignedOpCodesAnswerIllegalOp :
    emptyStore.seq = .idle ∧ (0x0A#8 : Byte) ∉ [0x01#8, 0x02#8, 0x03#8, 0x04#8, 0x05#8, 0x06#8, 0x07#8, 0x08#8, 0x09#8,
      0x10#8, 0x11#8, 0x12#8, 0x13#8, 0x14#8, 0x20#8, 0x21#8] := by decide +kernel
theorem witness_WrongOperandsAnswerIllegalOp :
    emptyStore.seq = .idle ∧ (0x08#8 : Byte) &&& 0xF8#8 ≠ 0#8 ∧ (zeros 19).length ≠ 20 ∧ (zeros 21).length ≠ 20 ∧
      (zeros 23).length ≠ 24 ∧ (zeros 25).length ≠ 24 ∧ HostOp.drvRdsr.takes (.byte 0#8) = false ∧
      HostOp.drvWrite.takes (.bytes []) = false ∧ 2 ^ 32 ≤ (List.replicate (2 ^ 32) (0#8 : Byte)).length := by
  refine ⟨rfl, by decide, by decide, by decide, by decide, by decide, rfl, rfl, ?_⟩
  rw [List.length_replicate]
theorem witness_StepRunsTheDecodedInstruction :
    ({ emptyStore with inputs := [.code (.frame [0x06#8])] } : State).inputs = .code (.frame [0x06#8]) :: [] ∧
      decode (.frame [0x06#8]) = .ok .wren := by decide +kernel
theorem witness_StepKeepsTheInvariant :
    Invariant oneRecord ∧ step oneRecord = .next oneRecord := by
  refine ⟨⟨by decide +kernel, by decide +kernel, fun _ => rfl, rfl, by decide +kernel, ?_, fun h => by cases h⟩, rfl⟩
  intro r hr
  cases hr
theorem witness_OperationsForgetEarlierOnes :
    oneRecord.ready ∧ isHostOp .storeRead = true ∧ Instr.storeRead.wellFormed = true := by decide +kernel
theorem witness_BusyRefusesEveryOperation :
    ({ emptyStore with seq := .busy .storeRead 3 } : State).seq = .busy .storeRead 3 := by decide +kernel
theorem witness_EveryRequestIsAnswered :
    ({ emptyStore with inputs := [.code (.request { op := 0x21#8, operands := .none })] } : State).ready ∧
      emptyStore.cs = false := by decide +kernel
/-- One operation for each of the result codes the statement allows. -/
theorem witness_ResultCodesByOperation :
    oneRecord.ready ∧ isHostOp .storeRead = true ∧
      after (exec .storeRead oneRecord) State.response = some (some { result := 0x00#8, data := .record rec1 1#64 }) ∧
      after (exec .storeRead emptyStore) State.response = some (some { result := 0x04#8, data := .empty }) ∧
      after (exec (.drvRead 0x80000#32 1#32) emptyStore) State.response = some (some { result := 0x01#8, data := .empty }) ∧
      after (exec (.drvSetBp 0x08#8) emptyStore) State.response = some (some { result := 0xFF#8, data := .empty }) := by decide +kernel
theorem witness_ErrorsLeaveTheDeviceAlone :
    emptyStore.ready ∧ isHostOp .storeRead = true ∧
      after (exec .storeRead emptyStore) State.response = some (some { result := 0x04#8, data := .empty }) ∧ (0x04#8 : Byte) ≠ 0x00#8 := by decide +kernel
theorem witness_OnlyLockingRaisesWp :
    emptyStore.ready ∧ after (exec (.drvSetBp 0x07#8) emptyStore) State.wp = some true ∧
      after (exec (.drvSetBp 0x08#8) emptyStore) State.wp = some false ∧ after (exec .wren emptyStore) State.wp = some false := by decide +kernel
theorem witness_DeviceChangesByInstruction :
    emptyStore.ready ∧ after (exec .storeRead emptyStore) (fun t => t.dev) = some emptyStore.dev := by decide +kernel
theorem witness_LockedStatusStaysLocked :
    ({ machine 0x8E#8 [] [] with wp := true } : State).ready ∧ (machine 0x8E#8 [] []).dev.params.wpWired = true ∧
      srwd (machine 0x8E#8 [] []).dev.sr = true ∧
      after (exec (.drvWrsr 0x00#8) { machine 0x8E#8 [] [] with wp := true }) (fun t => t.dev.sr) = some 0x8E#8 := by decide +kernel
theorem witness_CommandOnlyFramesComplete :
    emptyStore.ready := by decide +kernel
/-- Each clause's own condition on the device is met too. -/
theorem witness_StatusFramesComplete :
    emptyStore.ready ∧ emptyStore.dev.answers = true ∧ wel emptyStore.dev.sr = false ∧
      wel (machine 0x02#8 [] []).dev.sr = true ∧
      ({ emptyStore.dev with asleep := true } : Device).answers = false ∧ noDevice.dev.answers = false := by decide +kernel
theorem witness_DataFramesComplete :
    emptyStore.ready ∧ (0x7FFFF#24 : BusAddr).toNat + 1 ≤ 0x80000 ∧ (0x80000#24 : BusAddr).toNat + 0 ≤ 0x80000 ∧
      (0x7FFFE#24 : BusAddr).toNat + [0xAA#8, (0x55#8 : Byte)].length ≤ 0x80000 := by decide +kernel
theorem witness_FramesOutsideTheArrayStop :
    emptyStore.seq = .idle ∧ 0x80000 < (0x80000#24 : BusAddr).toNat + 1 ∧
      0x80000 < (0x7FFFF#24 : BusAddr).toNat + [0xAA#8, (0x55#8 : Byte)].length := by decide +kernel
/-- V-DRV-4 and V-DRV-8. -/
theorem witness_OutOfRangeAccessesTouchNoBus :
    emptyStore.seq = .idle ∧ 0x80000 < (0x7FFFF#32 : Word).toNat + (2#32 : Word).toNat ∧ (zeros 17).length < 2 ^ 32 ∧
      0x80000 < (0x7FFF0#32 : Word).toNat + (zeros 17).length := by decide +kernel
/-- V-DRV-3 and V-DRV-6. -/
theorem witness_DrvReadAnswersTheBytes :
    emptyStore.ready ∧ (0x7FFFF#32 : Word).toNat + (1#32 : Word).toNat ≤ 0x80000 ∧
      (0x80000#32 : Word).toNat + (0#32 : Word).toNat ≤ 0x80000 := by decide +kernel
theorem witness_DrvWriteStoresTheBytes :
    emptyStore.ready ∧ [(0xAA#8 : Byte)].length < 2 ^ 32 ∧ (0x7FFFF#32 : Word).toNat + [(0xAA#8 : Byte)].length ≤ 0x80000 := by decide +kernel
theorem witness_DrvRdsrAnswersTheStatus :
    emptyStore.ready ∧ noDevice.ready := by decide +kernel
theorem witness_AbsentDeviceIsNeverHeard :
    noDevice.ready ∧ noDevice.dev.params.present = false ∧
      step { noDevice with inputs := [.code (.request { op := 0x08#8, operands := .none })] } =
        exec .drvWake noDevice ∧
      (after (exec .drvWake noDevice) State.seq) = some .idle := by
  refine ⟨by decide +kernel, rfl, rfl, by decide +kernel⟩
theorem witness_DrvWrsrWritesTheStatus :
    emptyStore.ready := by decide +kernel
theorem witness_DrvLatchOpsComplete :
    emptyStore.ready := by decide +kernel
theorem witness_DrvPowerOpsComplete :
    emptyStore.ready := by decide +kernel
theorem witness_DrvSetBpRewritesProtection :
    emptyStore.ready ∧ (0x07#8 : Byte) &&& 0xF8#8 = 0#8 ∧ (0x00#8 : Byte) &&& 0xF8#8 = 0#8 := by decide +kernel
theorem witness_RecordCodecRoundTrip :
    pay1.length = 20 ∧ encodeRecord rec1 = encodeRecord rec1 := by decide +kernel
theorem witness_RecEncodeAnswersThePayload :
    emptyStore.seq = .idle := by decide +kernel
theorem witness_RecDecodeAnswersTheRecord :
    emptyStore.seq = .idle ∧ pay1.length = 20 := by decide +kernel
theorem witness_ValidationChecksThreeFields :
    hdr1.length = 24 := by decide +kernel
theorem witness_HeaderOpsComplete :
    emptyStore.seq = .idle ∧ (zeros 24).length = 24 ∧ validate (zeros 24) = none ∧ hdr1.length = 24 ∧
      validate hdr1 = some (parseHeader hdr1) := by decide +kernel
theorem witness_Crc32AnswersTheChecksum :
    emptyStore.seq = .idle ∧ pay1.length < 2 ^ 32 := by decide +kernel
theorem witness_CrcErrorDifferenceIsFixed :
    pay1.length = (zeros 20).length := by decide +kernel
theorem witness_CrcSeesEverySingleBitFlip :
    pay1.length = 20 ∧ 0 < 160 ∧ 159 < 160 := by decide +kernel
/-- Different sequence numbers, equal ones, and a header that carries the next one. -/
theorem witness_WritesSpareTheWinner :
    pick (some (parseHeader hdr1)) none = some (.A, parseHeader hdr1) ∧
      pick (some (parseHeader hdr1)) (some (parseHeader hdr1)) = some (.A, parseHeader hdr1) ∧
      (parseHeader hdrZero).seqno ≠ (parseHeader hdr1).seqno ∧
      pick (some (parseHeader hdrZero)) (some (parseHeader hdr1)) = some (.B, parseHeader hdr1) ∧
      (parseHeader hdr1).seqno = nextSeq none none ∧ nextSeq none none ≠ 0#64 := by decide +kernel
theorem witness_StoreWriteSendsSixTransactions :
    emptyStore.ready := by decide +kernel
theorem witness_StoreWriteFillsTheTargetSlot :
    oneRecord.ready ∧ oneRecord.dev.slotsWritable ∧ nextSeq (oneRecord.dev.header .A) (oneRecord.dev.header .B) ≠ 0#64 ∧
      oneRecord.dev.header .A = some (parseHeader hdr1) := by decide +kernel
theorem witness_StoreReadAnswersThePickedSlot :
    emptyStore.ready ∧
      pick (validate (emptyStore.dev.seenBytes 0 0x000 24)) (validate (emptyStore.dev.seenBytes 28 0x100 24)) = none ∧
      oneRecord.ready ∧
      pick (validate (oneRecord.dev.seenBytes 0 0x000 24)) (validate (oneRecord.dev.seenBytes 28 0x100 24)) =
        some (.A, parseHeader hdr1) := by decide +kernel
theorem witness_FlippedPayloadBitFailsIntegrity :
    pick (oneRecord.dev.header .A) (oneRecord.dev.header .B) = some (.A, parseHeader hdr1) ∧
      Machine.crc32 (oneRecord.dev.payload .A) = (parseHeader hdr1).crc32 ∧
      (machine 0x00#8 (hdr1 ++ flipBit pay1 159) (zeros 44)).ready ∧
      (machine 0x00#8 (hdr1 ++ flipBit pay1 159) (zeros 44)).dev.answers = true ∧
      (machine 0x00#8 (hdr1 ++ flipBit pay1 159) (zeros 44)).dev.header .A = oneRecord.dev.header .A ∧
      (machine 0x00#8 (hdr1 ++ flipBit pay1 159) (zeros 44)).dev.header .B = oneRecord.dev.header .B ∧
      (machine 0x00#8 (hdr1 ++ flipBit pay1 159) (zeros 44)).dev.payload .A = flipBit (oneRecord.dev.payload .A) 159 := by decide +kernel
theorem witness_ReopenedStoreAnswersTheSame :
    ({ oneRecord with inputs := [.blockReset] } : State).ready ∧
      ({ oneRecord with inputs := [.blockReset] } : State).inputs = .blockReset :: [] := by decide +kernel
theorem witness_WriteThenReadReturnsTheRecord :
    oneRecord.ready ∧ oneRecord.dev.slotsWritable ∧ nextSeq (oneRecord.dev.header .A) (oneRecord.dev.header .B) ≠ 0#64 := by decide +kernel
theorem witness_WritesFromAnEmptyStore :
    emptyStore.ready ∧ emptyStore.dev.slotsWritable ∧ emptyStore.dev.header .A = none ∧ emptyStore.dev.header .B = none ∧
      ([] : List Bureau).length + 1 < 2 ^ 64 ∧ [rec1].length + 1 < 2 ^ 64 ∧ 1 ≤ [rec1].length := by decide +kernel
theorem witness_ProtectedSlotsSwallowStoreWrites :
    (machine 0x0C#8 (zeros 44) (zeros 44)).ready ∧ (machine 0x0C#8 (zeros 44) (zeros 44)).dev.answers = true ∧
      bp (machine 0x0C#8 (zeros 44) (zeros 44)).dev.sr = 0b11#2 := by decide +kernel
theorem witness_WrappedStoreIsStuck :
    (machine 0x00#8 (hdrMax ++ pay1) (hdrZero ++ pay1)).ready ∧
      (machine 0x00#8 (hdrMax ++ pay1) (hdrZero ++ pay1)).dev.slotsWritable ∧
      (machine 0x00#8 (hdrMax ++ pay1) (hdrZero ++ pay1)).dev.header .A = some (parseHeader hdrMax) ∧
      (machine 0x00#8 (hdrMax ++ pay1) (hdrZero ++ pay1)).dev.header .B = some (parseHeader hdrZero) ∧
      (parseHeader hdrMax).seqno = BitVec.ofNat 64 (2 ^ 64 - 1) ∧ (parseHeader hdrZero).seqno = 0#64 ∧
      Machine.crc32 ((machine 0x00#8 (hdrMax ++ pay1) (hdrZero ++ pay1)).dev.payload .A) = (parseHeader hdrMax).crc32 := by decide +kernel
theorem witness_PowerLossKeepsTheArray :
    ({ oneRecord with inputs := [.powerLoss] } : State).inputs = .powerLoss :: [] := by decide +kernel
/-- The cut before WREN, before the WRITE's Select, right after it, and before its Deselect. -/
theorem witness_CutWriteLeavesItsRangeOpen :
    ({ oneRecord with mishap := some { kind := .powerLoss, after := 4 } } : State).seq = .idle ∧
      MishapKind.powerLoss ≠ .hang ∧ MishapKind.busFault ≠ .hang ∧ [(0xAA#8 : Byte)].length < 2 ^ 32 ∧
      (0x7FFFF#32 : Word).toNat + [(0xAA#8 : Byte)].length ≤ 0x80000 ∧
      (0x7FFFF#24 : BusAddr).toNat + [(0xAA#8 : Byte)].length ≤ 0x80000 ∧
      0 < 3 + (4 + [(0xAA#8 : Byte)].length + 2) ∧ 3 < 4 ∧ 9 < 3 + (4 + [(0xAA#8 : Byte)].length + 2) ∧
      6 < 4 + [(0xAA#8 : Byte)].length + 2 := by decide +kernel
/-- The first and the last place of a cut and of a hang; there slot B is transient. -/
theorem witness_StopBetweenTheWritesIsTransient :
    oneRecord.seq = .idle ∧ oneRecord.dev.slotsWritable ∧
      after (exec (.storeWrite rec3) { oneRecord with mishap := some { kind := .powerLoss, after := 89 } })
          (fun t => t.slotState .B) = some .transient ∧
      after (exec (.storeWrite rec3) { oneRecord with mishap := some { kind := .busFault, after := 92 } })
          (fun t => (t.slotState .A, t.slotState .B)) = some (.written 1#64 true, .transient) ∧
      after (exec (.storeWrite rec3) { oneRecord with mishap := some { kind := .hang, after := 88 } })
          (fun t => (t.seq, t.slotState .B)) = some (.busy (.storeWrite rec3) 90, .transient) ∧
      after (exec (.storeWrite rec3) { oneRecord with mishap := some { kind := .hang, after := 90 } })
          (fun t => t.slotState .B) = some .transient := by decide +kernel
/-- A hang in the first frame at its first and last byte exchange, one in a later frame, and one that never comes. -/
theorem witness_HungExchangeStaysBusy :
    ({ oneRecord with mishap := some { kind := .hang, after := 0 } } : State).seq = .idle ∧
      firstFrame (.drvRead 0x7FFFF#32 1#32) = some 5 ∧ 0 ≤ 5 ∧ 5 ≤ 5 ∧
      after (exec .storeRead { oneRecord with mishap := some { kind := .hang, after := 60 } }) State.seq =
        some (.busy .storeRead 61) ∧
      after (exec .storeRead { oneRecord with mishap := some { kind := .hang, after := 86 } }) State.seq = some .idle := by
  decide +kernel
/-- A cut before the header's WRITE, and one inside it. What the second leaves of the header is free values, so no
evaluation shows which of the forms it has. -/
theorem witness_PowerLossKeepsARecord :
    ({ oneRecord with mishap := some { kind := .powerLoss, after := 121 } } : State).seq = .idle ∧ 121 < 122 ∧ 92 < 122 ∧
      oneRecord.dev.slotsWritable ∧
      pick (oneRecord.dev.header .A) (oneRecord.dev.header .B) = some (.A, parseHeader hdr1) ∧
      oneRecord.dev.header .B = none ∧ Machine.crc32 (oneRecord.dev.payload .A) = (parseHeader hdr1).crc32 ∧
      nextSeq (oneRecord.dev.header .A) (oneRecord.dev.header .B) ≠ 0#64 ∧
      after (exec (.storeWrite rec3) { oneRecord with mishap := some { kind := .powerLoss, after := 92 } })
          (fun t => t.dev.bytesAt (hdrOff .B) 24) = some (oneRecord.dev.bytesAt (hdrOff .B) 24) := by decide +kernel

end Sys2Proof.Machine.Tests
end

/-! # Proofs of the state family (10_state.md)

## What an instruction runs

The body of each host operation and the frames each instruction can send, said once. -/

namespace Sys2Proof.Machine

/-- The frame that an instruction is, or the instruction is a host operation (30_encoding.md R80). -/
theorem frame_or_host : ∀ i : Instr, (∃ f : Frame, i = f.instr) ∨ isHostOp i = true
  | .wrsr v => .inl ⟨.wrsr v, rfl⟩
  | .write addr data => .inl ⟨.write addr data, rfl⟩
  | .read addr n => .inl ⟨.read addr n, rfl⟩
  | .wrdi => .inl ⟨.wrdi, rfl⟩
  | .rdsr => .inl ⟨.rdsr, rfl⟩
  | .wren => .inl ⟨.wren, rfl⟩
  | .wake => .inl ⟨.wake, rfl⟩
  | .sleep => .inl ⟨.sleep, rfl⟩
  | .drvRead _ _ | .drvWrite _ _ | .drvRdsr | .drvWrsr _ | .drvWren | .drvWrdi | .drvSleep | .drvWake | .drvSetBp _
  | .crc32 _ | .recEncode _ | .recDecode _ | .hdrValidate _ | .hdrEncode _ _ | .storeWrite _ | .storeRead => .inr rfl

/-- The body that `exec` runs for a host operation (`exec_host`); a serial frame has none. -/
def hostBody : Instr → Op RespData
  | .drvRead addr n => (memRead addr n.toNat).bind fun rx => Op.pure (.bytes rx)
  | .drvWrite addr data => (memWrite addr data).andThen (Op.pure .empty)
  | .drvRdsr => readStatus.bind fun sr => Op.pure (.status sr)
  | .drvWrsr v => (writeStatus v).andThen (Op.pure .empty)
  | .drvWren => (txn .wren).andThen (Op.pure .empty)
  | .drvWrdi => (txn .wrdi).andThen (Op.pure .empty)
  | .drvSleep => (txn .sleep).andThen <| (delay Config.tSleepUs).andThen (Op.pure .empty)
  | .drvWake => (txn .wake).andThen <| (delay Config.tWakeUs).andThen (Op.pure .empty)
  | .drvSetBp cfg => (setBlockProtect cfg).andThen (Op.pure .empty)
  | .crc32 data => (crcRun data).bind fun c => Op.pure (.crc c)
  | .recEncode r => (codecEncode r).bind fun p => Op.pure (.bytes p)
  | .recDecode b => (codecDecode b).bind fun r => Op.pure (.bureau r)
  | .hdrValidate h => Op.pure (validityData (validate h))
  | .hdrEncode crc seqno => Op.pure (.bytes (hdrEncode crc seqno))
  | .storeWrite r => (storeWrite r).bind fun n => Op.pure (.seqno n)
  | .storeRead => storeRead
  | _ => Op.pure .empty

theorem exec_host {i : Instr} (h : isHostOp i = true) (s : State) : exec i s = hostOp i (hostBody i) s := by
  cases i <;> simp only [isHostOp, Bool.false_eq_true] at h <;> rfl

/-- The body that `exec` runs for a serial frame (`exec_frame`). -/
def frameBody (f : Frame) : Op Unit :=
  match f with
  | .read _ _ | .rdsr => sendAndCapture f
  | .wrsr _ | .write _ _ | .wrdi | .wren | .wake | .sleep => sendOnly f

theorem exec_frame (f : Frame) (s : State) : exec f.instr s = serialOp f (frameBody f) s := by
  cases f <;> rfl

theorem frame_not_host (f : Frame) : isHostOp f.instr = false := by
  cases f <;> rfl

theorem frame_wellFormed (f : Frame) : f.instr.wellFormed = f.wellFormed := by
  cases f <;> rfl

theorem serialOp_busy {f : Frame} {body : Op Unit} {s : State} {op : Instr} {k : Nat} (h : s.seq = .busy op k) :
    serialOp f body s = .refused .requestWhileBusy := by
  simp only [serialOp, h]

theorem serialOp_idle {f : Frame} {body : Op Unit} {s : State} (h : s.seq = .idle) (hw : f.wellFormed = true) :
    serialOp f body s = settle (fun _ t => t.release) (body (s.accept f.instr)) := by
  simp only [serialOp, h, hw, if_true]

theorem serialOp_illFormed {f : Frame} {body : Op Unit} {s : State} (h : s.seq = .idle) (hw : f.wellFormed = false) :
    serialOp f body s = .fault .noSuchAddress := by
  simp [serialOp, h, hw]

theorem exec_busy (i : Instr) {s : State} {op : Instr} {k : Nat} (h : s.seq = .busy op k) :
    exec i s = .refused .requestWhileBusy := by
  rcases frame_or_host i with ⟨f, rfl⟩ | hi
  · rw [exec_frame, serialOp_busy h]
  · rw [exec_host hi, hostOp_busy h]

theorem exec_illFormed {i : Instr} {s : State} (h : s.seq = .idle) (hw : i.wellFormed = false) :
    exec i s = if isHostOp i then .next s.illegalOp else .fault .noSuchAddress := by
  rcases frame_or_host i with ⟨f, rfl⟩ | hi
  · rw [exec_frame, serialOp_illFormed h (frame_wellFormed f ▸ hw), frame_not_host]
    rfl
  · rw [exec_host hi, hostOp_illFormed h hw, hi]
    rfl

/-- The serial command that a frame is (30_encoding.md R82). -/
@[simp] def frameKind : Frame → FrameOp
  | .wrsr _ => .wrsr
  | .write _ _ => .write
  | .read _ _ => .read
  | .wrdi => .wrdi
  | .rdsr => .rdsr
  | .wren => .wren
  | .wake => .wake
  | .sleep => .sleep

/-- The serial commands that an instruction's body can send (the pseudocode of 40_driver.md and 43_store.md);
`exec_keeps` ties it to `exec`. -/
@[simp] def sentKinds : Instr → List FrameOp
  | .wrsr _ => [.wrsr]
  | .write _ _ => [.write]
  | .read _ _ | .drvRead _ _ | .storeRead => [.read]
  | .wrdi | .drvWrdi => [.wrdi]
  | .rdsr | .drvRdsr => [.rdsr]
  | .wren | .drvWren => [.wren]
  | .wake | .drvWake => [.wake]
  | .sleep | .drvSleep => [.sleep]
  | .drvWrite _ _ => [.wren, .write]
  | .drvWrsr _ => [.wren, .wrsr]
  | .drvSetBp _ => [.rdsr, .wren, .wrsr]
  | .storeWrite _ => [.read, .wren, .write]
  | .crc32 _ | .recEncode _ | .recDecode _ | .hdrValidate _ | .hdrEncode _ _ => []

/-- Instruction `i` can send frame `f`. -/
@[simp] abbrev Sends (i : Instr) (f : Frame) : Prop := frameKind f ∈ sentKinds i

theorem sends_self (f : Frame) : Sends f.instr f := by
  cases f <;> exact List.mem_singleton_self _

/-! ## What every body keeps

A predicate that each thing a body can do keeps is kept by every body. The induction over the bodies is made once, with
the working registers tracked exactly, so that no read of one finds it without a value (10_state.md R26). -/

/-- How a body that keeps `I` can end early: raising an error with `I`, or abandoned with `A`; never in a fault. -/
def Ends (I A : State → Prop) : Stop → State → Prop
  | .raised _, t => I t
  | .abandoned, t => A t
  | .faulted _, _ => False

/-- Everything that a body of instruction `i` can do keeps `I`, and a mishap during it leaves `A`. -/
structure Keeps (i : Instr) (I A : State → Prop) : Prop where
  regs : ∀ {s : State} {r : WorkRegs}, r.sized → I s → I { s with regs := r }
  txn : ∀ {s : State} {f : Frame}, Sends i f → f.wellFormed = true → I s → I (s.afterTxn f)
  cut : ∀ {s : State} {f : Frame} {m : Mishap} (done : Nat), Sends i f → f.wellFormed = true → I s →
    s.mishap = some m → A ((s.cutTxn f done).struck m.kind)
  delay : i = .drvSleep ∨ i = .drvWake → ∀ {s : State} (us : Nat), I s →
    I ({ s with dev := s.dev.elapse us : State }.afterAction (.delay us))
  lock : ∀ {s : State} {cfg : Byte}, i = .drvSetBp cfg → cfgHwLock cfg = true → I s →
    I ({ s with wp := true : State }.afterAction (.setWp true))
  strike : ∀ {s : State} {m : Mishap}, I s → s.mishap = some m → A ({ s with mishap := none : State }.struck m.kind)
  mark : (∃ b, i = .storeWrite b) → ∀ {s : State} (x : Slot) (u : Option Unfinished), I s → I (s.setUnfinished x u)

/-- `I` holds and the working registers are `r`, of their width. -/
def At (I : State → Prop) (r : WorkRegs) (s : State) : Prop := I s ∧ s.regs = r ∧ r.sized

/-- What a precondition says of no state can be assumed. -/
theorem triple_assume {α : Type} {p : Prop} {P : State → Prop} {x : Op α} {Q : α → State → Prop}
    {E : Stop → State → Prop} (h : p → Op.Triple P x Q E) : Op.Triple (fun s => p ∧ P s) x Q E :=
  fun s ⟨hp, hs⟩ => h hp s hs

/-- A weaker postcondition. -/
theorem triple_post {α : Type} {P : State → Prop} {x : Op α} {Q Q' : α → State → Prop} {E : Stop → State → Prop}
    (h : Op.Triple P x Q E) (hQ : ∀ a t, Q a t → Q' a t) : Op.Triple P x Q' E :=
  triple_weaken h (fun _ hs => hs) hQ (fun _ _ hs => hs)

theorem triple_exists {α β : Type} {P : β → State → Prop} {x : Op α} {Q : α → State → Prop} {E : Stop → State → Prop}
    (h : ∀ b, Op.Triple (P b) x Q E) : Op.Triple (fun s => ∃ b, P b s) x Q E :=
  fun s ⟨b, hs⟩ => h b s hs

theorem sized_empty : WorkRegs.empty.sized := by
  simp [WorkRegs.sized, WorkRegs.empty]

/-- The registers with the header buffer of a slot written (10_state.md R26). -/
def WorkRegs.putHbuf (r : WorkRegs) : Slot → List Byte → WorkRegs
  | .A, l => { r with hbufA := some l }
  | .B, l => { r with hbufB := some l }

/-- The registers with the validated header of a slot written (10_state.md R26). -/
def WorkRegs.putHdr (r : WorkRegs) : Slot → Option Header → WorkRegs
  | .A, h => { r with ha := some h }
  | .B, h => { r with hb := some h }

theorem setHbuf_eq (x : Slot) (l : List Byte) : setHbuf x l = writeRegs fun r => WorkRegs.putHbuf r x l := by
  cases x <;> rfl

theorem setHdr_eq (x : Slot) (h : Option Header) : setHdr x h = writeRegs fun r => WorkRegs.putHdr r x h := by
  cases x <;> rfl

section Bodies

variable {i : Instr} {I A : State → Prop} {r : WorkRegs} {α β : Type}

theorem At.keep {s : State} (h : At I r s) : I s := h.1

theorem triple_pure_at {a : α} : Op.Triple (At I r) (Op.pure a) (fun _ => At I r) (Ends I A) :=
  triple_pure fun _ h => h

/-- Whatever the body's value is turned into. -/
theorem triple_bind_pure {P : State → Prop} {x : Op α} {g : α → β} (h : Op.Triple P x (fun _ => I) (Ends I A)) :
    Op.Triple P (x.bind fun a => Op.pure (g a)) (fun _ => I) (Ends I A) :=
  triple_bind h fun _ => triple_pure fun _ hs => hs

theorem triple_forget_regs {P : State → Prop} {x : Op α} {E : Stop → State → Prop}
    (h : Op.Triple P x (fun _ => At I r) E) : Op.Triple P x (fun _ => I) E :=
  triple_post h fun _ _ hs => hs.keep

/-- Reading a register that `r` gives a value, and then `f`. -/
theorem triple_read_at {n : WorkReg} {get : WorkRegs → Option α} {v : α} (hv : get r = some v) {f : α → Op β}
    {Q : β → State → Prop} (hf : Op.Triple (At I r) (f v) Q (Ends I A)) :
    Op.Triple (At I r) (Op.bind (readReg n get) f) Q (Ends I A) := by
  intro s hs
  rw [op_bind_ok (readReg_some (show get s.regs = some v by rw [hs.2.1, hv]))]
  exact hf s hs

theorem triple_read_last {n : WorkReg} {get : WorkRegs → Option α} {v : α} (hv : get r = some v) :
    Op.Triple (At I r) (readReg n get) (fun a t => a = v ∧ At I r t) (Ends I A) :=
  triple_readReg fun s hs => ⟨v, by rw [hs.2.1, hv], rfl, hs⟩

variable (k : Keeps i I A)
include k

theorem Keeps.write {upd : WorkRegs → WorkRegs} (h : r.sized → (upd r).sized) :
    Op.Triple (At I r) (writeRegs upd) (fun _ => At I (upd r)) (Ends I A) := by
  refine triple_writeRegs ?_
  rintro s ⟨hI, rfl, hs⟩
  exact ⟨k.regs (h hs) hI, rfl, h hs⟩

theorem Keeps.send {f : Frame} (hf : Sends i f) (hw : f.wellFormed = true) :
    Op.Triple (At I r) (Machine.txn f)
      (fun l t => (∃ d n, l = capturedBytes f (Device.incoming d n f)) ∧ At I r t) (Ends I A) :=
  triple_txn
    (fun s hs _ => ⟨⟨s.dev, s.draws, rfl⟩, k.txn hf hw hs.keep, hs.2⟩)
    (fun _ _ done hs hm _ => k.cut done hf hw hs.keep hm)

/-- A transaction whose captured bytes are not looked at. -/
theorem Keeps.send_only {f : Frame} (hf : Sends i f) (hw : f.wellFormed = true) :
    Op.Triple (At I r) (Machine.txn f) (fun _ => At I r) (Ends I A) :=
  triple_post (k.send hf hw) (fun _ _ h => h.2)

theorem Keeps.wait (hi : i = .drvSleep ∨ i = .drvWake) (us : Nat) :
    Op.Triple (At I r) (Machine.delay us) (fun _ => At I r) (Ends I A) :=
  triple_action (fun _ hs _ => ⟨k.delay hi us hs.keep, hs.2⟩) (fun _ _ hs hm _ => k.strike hs.keep hm)

theorem Keeps.raiseWp {cfg : Byte} (hi : i = .drvSetBp cfg) (hl : cfgHwLock cfg = true) :
    Op.Triple (At I r) (driveWp true) (fun _ => At I r) (Ends I A) :=
  triple_action (fun _ hs _ => ⟨k.lock hi hl hs.keep, hs.2⟩) (fun _ _ hs hm _ => k.strike hs.keep hm)

omit k in
/-- A range check that raises nothing leaves an address that the bus can carry (40_driver.md R110). -/
theorem triple_checkRange_at {addr : Word} {n : Nat} :
    Op.Triple (At I r) (checkRange addr n) (fun _ s => addr.toNat + n ≤ 0x80000 ∧ At I r s) (Ends I A) :=
  triple_checkRange (fun _ hs h => ⟨(rangeOk_iff addr n).1 h, hs⟩) (fun _ hs _ => hs.keep)

/-! ### The driver's bodies -/

theorem Keeps.writeEnable (hf : Sends i .wren) :
    Op.Triple (At I r) Machine.writeEnable (fun _ => At I r) (Ends I A) :=
  triple_then (k.send_only hf rfl) triple_pure_at

theorem Keeps.memRead {addr : Word} {n : Nat} (hf : ∀ a, Sends i (.read a n)) :
    Op.Triple (At I r) (Machine.memRead addr n)
      (fun l t => l.length = n ∧ At I { r with rx := some l } t) (Ends I A) := by
  refine triple_then triple_checkRange_at (triple_assume fun hr => ?_)
  have hw : (Frame.read (busAddr addr) n).wellFormed = true := by
    simpa [Frame.wellFormed, Config.deviceCapacity, busAddr_toNat (show addr.toNat ≤ 0x80000 by omega)] using hr
  refine triple_bind (k.send (hf _) hw) fun l => triple_assume ?_
  rintro ⟨d, draw, rfl⟩
  refine triple_then (k.write fun h => h) ?_
  refine triple_post (triple_read_last rfl) ?_
  rintro _ t ⟨rfl, ht⟩
  exact ⟨captured_read_length d draw _ n, ht⟩

theorem Keeps.memWrite {addr : Word} {data : List Byte} (he : Sends i .wren) (hf : ∀ a, Sends i (.write a data)) :
    Op.Triple (At I r) (Machine.memWrite addr data) (fun _ => At I r) (Ends I A) := by
  refine triple_then triple_checkRange_at (triple_assume fun hr => ?_)
  have hw : (Frame.write (busAddr addr) data).wellFormed = true := by
    simpa [Frame.wellFormed, Config.deviceCapacity, busAddr_toNat (show addr.toNat ≤ 0x80000 by omega)] using hr
  exact triple_then (k.writeEnable he) (triple_then (k.send_only (hf _) hw) triple_pure_at)

theorem Keeps.readStatus (hf : Sends i .rdsr) :
    Op.Triple (At I r) Machine.readStatus (fun _ t => ∃ l, At I { r with rx := some l } t) (Ends I A) := by
  refine triple_bind (k.send_only hf rfl) fun l => triple_then (k.write fun h => h) ?_
  exact triple_read_at (by rfl) (triple_pure fun _ hs => ⟨l, hs⟩)

theorem Keeps.writeStatus {v : Byte} (he : Sends i .wren) (hf : Sends i (.wrsr v)) :
    Op.Triple (At I r) (Machine.writeStatus v) (fun _ => At I r) (Ends I A) :=
  triple_then (k.writeEnable he) (triple_then (k.send_only hf rfl) triple_pure_at)

theorem Keeps.setBlockProtect {cfg : Byte} (hi : i = .drvSetBp cfg) :
    Op.Triple (At I r) (Machine.setBlockProtect cfg) (fun _ => I) (Ends I A) := by
  have hs : ∀ {f : Frame}, frameKind f ∈ [.rdsr, .wren, .wrsr] → Sends i f := fun h => by rw [hi]; exact h
  have lock : ∀ {r : WorkRegs}, Op.Triple (At I r) (if cfgHwLock cfg then driveWp true else Op.pure ())
      (fun _ => At I r) (Ends I A) := fun {r} => by
    split_ifs with hl
    · exact k.raiseWp hi hl
    · exact triple_pure_at
  refine triple_bind (k.readStatus (hs (by simp))) fun sr => triple_exists fun l => ?_
  refine triple_then (k.write fun h => h) (triple_then lock (triple_read_at (by rfl) ?_))
  exact triple_forget_regs (k.writeStatus (hs (by simp)) (hs (by simp)))

/-! ### The codec and the checksum -/

omit k in
theorem triple_checkCount {p : Nat} : Op.Triple (At I r) (checkCount p) (fun _ => At I r) (Ends I A) := by
  intro s hs
  unfold checkCount
  split_ifs
  · exact hs.keep
  · exact hs

omit k in
theorem encodeRecord_length (b : Bureau) : (encodeRecord b).length = Config.payloadSize := by
  simp [encodeRecord, le4, le8, zeros, Config.payloadSize]

theorem Keeps.codecEncode (b : Bureau) :
    Op.Triple (At I r) (Machine.codecEncode b) (fun _ => At I { r with pay := some (encodeRecord b) }) (Ends I A) := by
  have hs : r.sized → { r with pay := some (encodeRecord b) : WorkRegs }.sized := fun ⟨_, ha, hb⟩ =>
    ⟨fun l hl => by cases hl; exact encodeRecord_length b, ha, hb⟩
  refine triple_then triple_checkCount (triple_then (k.write hs) ?_)
  exact triple_post (triple_read_last rfl) (fun _ _ h => h.2)

omit k in
theorem triple_codecDecode {b : List Byte} :
    Op.Triple (At I r) (codecDecode b) (fun _ => At I r) (Ends I A) :=
  triple_then triple_checkCount triple_pure_at

theorem Keeps.crcRun (data : List Byte) :
    Op.Triple (At I r) (Machine.crcRun data)
      (fun _ => At I { r with crc := some (crcUpdate Config.crcInit data) }) (Ends I A) :=
  triple_then (k.write fun h => h) (triple_read_at (by rfl) triple_pure_at)

/-! ### The store's bodies -/

omit k in
/-- Reading the header buffer of a slot right after writing it. -/
theorem triple_getHbuf (x : Slot) {l : List Byte} {f : List Byte → Op β} {Q : β → State → Prop}
    (hf : Op.Triple (At I (WorkRegs.putHbuf r x l)) (f l) Q (Ends I A)) :
    Op.Triple (At I (WorkRegs.putHbuf r x l)) ((getHbuf x).bind f) Q (Ends I A) := by
  cases x with
  | A => exact triple_read_at (get := WorkRegs.hbufA) rfl hf
  | B => exact triple_read_at (get := WorkRegs.hbufB) rfl hf

theorem Keeps.setHbuf (x : Slot) {l : List Byte} (hl : l.length = Config.headerSize) :
    Op.Triple (At I r) (Machine.setHbuf x l) (fun _ => At I (WorkRegs.putHbuf r x l)) (Ends I A) := by
  rw [setHbuf_eq]
  refine k.write fun ⟨hp, ha, hb⟩ => ?_
  cases x with
  | A => exact ⟨hp, fun l' h => by cases h; exact hl, hb⟩
  | B => exact ⟨hp, ha, fun l' h => by cases h; exact hl⟩

theorem Keeps.setHdr (x : Slot) (h : Option Header) :
    Op.Triple (At I r) (Machine.setHdr x h) (fun _ => At I (WorkRegs.putHdr r x h)) (Ends I A) := by
  rw [setHdr_eq]
  exact k.write fun hs => by cases x <;> exact hs

theorem Keeps.readHdr (x : Slot) (hf : ∀ a n, Sends i (.read a n)) :
    Op.Triple (At I r) (Machine.readHdr x)
      (fun _ t => ∃ l, At I (WorkRegs.putHdr (WorkRegs.putHbuf { r with rx := some l } x l) x (validate l)) t)
      (Ends I A) := by
  refine triple_bind (k.memRead fun a => hf a _) fun l => triple_assume fun hl => ?_
  refine triple_then (k.setHbuf x hl) (triple_getHbuf x ?_)
  exact triple_post (k.setHdr x (validate l)) (fun _ _ h => ⟨l, h⟩)

/-- The record of an unfinished slot, written by STORE_WRITE only (43_store.md R211; log 36). -/
theorem Keeps.setMark (hi : ∃ b, i = .storeWrite b) (x : Slot) (u : State → Option Unfinished) :
    Op.Triple (At I r) (fun s => .ok () (s.setUnfinished x (u s))) (fun _ => At I r) (Ends I A) :=
  fun s hs => ⟨k.mark hi x (u s) hs.keep, hs.2⟩

theorem Keeps.preparePayload (b : Bureau) :
    Op.Triple (At I r) (Machine.preparePayload b)
      (fun _ t => ∃ c, At I { r with pay := some (encodeRecord b), crc := some c } t) (Ends I A) := by
  refine triple_then (k.codecEncode b) (triple_read_at (by rfl) (triple_bind (k.crcRun _) fun c => ?_))
  exact triple_post (k.write fun h => h) fun _ _ h => ⟨c, h⟩

theorem Keeps.chooseTarget {ha hb : Option Header} (hha : r.ha = some ha) (hhb : r.hb = some hb) :
    Op.Triple (At I r) Machine.chooseTarget
      (fun _ => At I { r with nextSeq := some (nextSeq ha hb), target := some (target ha hb) }) (Ends I A) :=
  triple_read_at hha (triple_read_at hhb (triple_then (k.write fun h => h) (k.write fun h => h)))

theorem Keeps.writePayload (hi : ∃ b, i = .storeWrite b) (he : Sends i .wren) (hw : ∀ a l, Sends i (.write a l))
    {x : Slot} {p : List Byte} (hx : r.target = some x) (hp : r.pay = some p) :
    Op.Triple (At I r) Machine.writePayload (fun _ => At I r) (Ends I A) :=
  triple_read_at hx (triple_read_at hp (triple_then (k.memWrite he fun a => hw a _) (k.setMark hi _ _)))

theorem Keeps.writeHeader (hi : ∃ b, i = .storeWrite b) (he : Sends i .wren) (hw : ∀ a l, Sends i (.write a l))
    {x : Slot} {c : Word} {n : DWord} (hx : r.target = some x) (hc : r.crc = some c) (hn : r.nextSeq = some n) :
    Op.Triple (At I r) Machine.writeHeader (fun _ => At I r) (Ends I A) :=
  triple_read_at hx (triple_read_at hc (triple_read_at hn
    (triple_then (k.memWrite he fun a => hw a _) (k.setMark hi _ _))))

/-- STORE_WRITE writes every register before it reads it: payload and checksum, headers, sequence number and target. -/
theorem Keeps.storeWrite {b : Bureau} (hi : i = .storeWrite b) :
    Op.Triple (At I r) (Machine.storeWrite b) (fun _ => I) (Ends I A) := by
  have hs : ∀ {f : Frame}, frameKind f ∈ [.read, .wren, .write] → Sends i f := fun h => by rw [hi]; exact h
  have hr : ∀ a n, Sends i (.read a n) := fun a n => hs (by simp)
  have he : Sends i .wren := hs (by simp)
  have hw : ∀ a l, Sends i (.write a l) := fun a l => hs (by simp)
  refine triple_then (k.preparePayload b) (triple_exists fun c => ?_)
  refine triple_then (k.readHdr .A hr) (triple_exists fun la => ?_)
  refine triple_then (k.readHdr .B hr) (triple_exists fun lb => ?_)
  refine triple_then (k.chooseTarget (by rfl) (by rfl)) ?_
  refine triple_then (k.writePayload ⟨b, hi⟩ he hw (by rfl) (by rfl)) ?_
  refine triple_then (k.writeHeader ⟨b, hi⟩ he hw (by rfl) (by rfl) (by rfl)) ?_
  exact triple_post (triple_read_last rfl) fun _ _ h => h.2.keep

/-- STORE_READ's step 4, after `PICK` has been written. -/
theorem Keeps.readPayload {h : Header} (hf : ∀ a n, Sends i (.read a n)) {x : Slot} (hx : r.pick = some x) :
    Op.Triple (At I r) (Machine.readPayload h) (fun _ t => ∃ r', r'.pay ≠ none ∧ At I r' t) (Ends I A) := by
  refine triple_read_at hx (triple_bind (k.memRead fun a => hf a _) fun l => triple_assume fun hl => ?_)
  refine triple_then (k.write (by rintro ⟨-, ha, hb⟩; exact ⟨fun l' h => by cases h; exact hl, ha, hb⟩)) ?_
  refine triple_read_at (by rfl) (triple_bind (k.crcRun _) fun c => triple_then (k.write fun h => h) ?_)
  refine triple_read_at (by rfl) fun s hs => ?_
  unfold checkIntegrity
  split_ifs
  · exact ⟨_, by simp, hs⟩
  · exact hs.keep

omit k in
theorem triple_recheck {h : Header} : Op.Triple (At I r) (recheck h) (fun _ => At I r) (Ends I A) := by
  intro s hs
  unfold recheck
  split_ifs
  · exact hs
  · exact hs.keep

theorem Keeps.readPick {ha hb : Option Header} (hf : ∀ a n, Sends i (.read a n)) :
    Op.Triple (At I r) (Machine.readPick ha hb) (fun _ => I) (Ends I A) := by
  unfold Machine.readPick
  cases pick ha hb with
  | none => exact triple_raise fun _ hs => hs.keep
  | some p =>
    obtain ⟨x, h⟩ := p
    refine triple_then (k.write fun h => h) (triple_then triple_recheck ?_)
    refine triple_then (k.readPayload hf rfl) (triple_exists fun r' => triple_assume fun hp => ?_)
    obtain ⟨p, hp⟩ := Option.ne_none_iff_exists'.1 hp
    exact triple_read_at hp (triple_bind triple_codecDecode fun _ => triple_pure fun _ hs => hs.keep)

theorem Keeps.storeRead (hi : i = .storeRead) :
    Op.Triple (At I r) Machine.storeRead (fun _ => I) (Ends I A) := by
  have hf : ∀ a n, Sends i (.read a n) := fun a n => by rw [hi]; exact List.mem_singleton_self _
  refine triple_then (k.readHdr .A hf) (triple_exists fun la => ?_)
  refine triple_then (k.readHdr .B hf) (triple_exists fun lb => ?_)
  exact triple_read_at (by rfl) (triple_read_at (by rfl) (k.readPick hf))

/-! ### All host operations -/

/-- What everything a host operation can do keeps, its body keeps, and it ends in no fault. -/
theorem Keeps.hostBody : Op.Triple (At I WorkRegs.empty) (Machine.hostBody i) (fun _ => I) (Ends I A) := by
  have thenPure : ∀ {γ : Type} {x : Op γ} {d : RespData}, Op.Triple (At I WorkRegs.empty) x (fun _ => I) (Ends I A) →
      Op.Triple (At I WorkRegs.empty) (x.andThen (Op.pure d)) (fun _ => I) (Ends I A) := triple_bind_pure
  cases i with
  | drvRead addr n =>
    exact triple_bind (k.memRead fun _ => List.mem_singleton_self _) fun l => triple_pure fun _ hs => hs.2.keep
  | drvWrite addr data =>
    exact thenPure (triple_forget_regs (k.memWrite (by simp) (by simp)))
  | drvRdsr =>
    refine triple_bind (k.readStatus (List.mem_singleton_self _)) fun l => triple_pure ?_
    rintro _ ⟨_, hs⟩
    exact hs.keep
  | drvWrsr v =>
    exact thenPure (triple_forget_regs (k.writeStatus (by simp) (by simp)))
  | drvWren => exact thenPure (triple_forget_regs (k.send_only (List.mem_singleton_self _) rfl))
  | drvWrdi => exact thenPure (triple_forget_regs (k.send_only (List.mem_singleton_self _) rfl))
  | drvSleep =>
    exact triple_then (k.send_only (List.mem_singleton_self _) rfl) (triple_then (k.wait (.inl rfl) _)
      (triple_pure fun _ hs => hs.keep))
  | drvWake =>
    exact triple_then (k.send_only (List.mem_singleton_self _) rfl) (triple_then (k.wait (.inr rfl) _)
      (triple_pure fun _ hs => hs.keep))
  | drvSetBp cfg => exact thenPure (k.setBlockProtect rfl)
  | crc32 data => exact triple_bind_pure (triple_forget_regs (k.crcRun data))
  | recEncode b => exact triple_bind_pure (triple_forget_regs (k.codecEncode b))
  | recDecode b => exact triple_bind_pure (triple_forget_regs triple_codecDecode)
  | storeWrite b => exact triple_bind_pure (k.storeWrite rfl)
  | storeRead => exact k.storeRead rfl
  | hdrValidate | hdrEncode | wrsr | write | read | wrdi | rdsr | wren | wake | sleep =>
    exact triple_pure fun _ hs => hs.keep

end Bodies

/-! ## How an instruction ends -/

/-- The outcomes of a well-formed instruction whose body keeps `I` and leaves `A` to a mishap. -/
inductive Ended (i : Instr) (I A : State → Prop) : Host.Outcome State Fault Refusal → Prop
  | answered {t : State} {p : Response} : p.lawful → I t → Ended i I A (.next (t.respond p))
  | released {t : State} : isHostOp i = false → I t → Ended i I A (.next t.release)
  | abandoned {t : State} : A t → Ended i I A (.next t)

theorem lawful_success (d : RespData) : (Response.success d).lawful := fun h => absurd rfl h

theorem lawful_failure (c : ResultCode) : (Response.failure c).lawful := fun _ => rfl

theorem settle_ended {α : Type} {i : Instr} {P I A : State → Prop} {x : Op α} {complete : α → State → State} {s : State}
    (hx : Op.Triple P x (fun _ => I) (Ends I A)) (hs : P s) (hc : ∀ a t, I t → Ended i I A (.next (complete a t))) :
    Ended i I A (settle complete (x s)) := by
  cases hb : x s with
  | ok a t => exact hc a t (triple_ok hx hs hb)
  | stop e t =>
    have he : Ends I A e t := triple_stop hx hs hb
    cases e with
    | raised c => exact .answered (lawful_failure c) he
    | abandoned => exact .abandoned he
    | faulted f => exact he.elim

section

variable {i : Instr} {I A : State → Prop} {s u : State} (k : Keeps i I A)
include k

theorem Keeps.frameBody {f : Frame} {r : WorkRegs} (hf : Sends i f) (hw : f.wellFormed = true) :
    Op.Triple (At I r) (Machine.frameBody f) (fun _ => I) (Ends I A) := by
  have capture : Op.Triple (At I r) (sendAndCapture f) (fun _ => I) (Ends I A) :=
    triple_bind (k.send_only hf hw) fun _ => triple_forget_regs (k.write fun h => h)
  have send : Op.Triple (At I r) (sendOnly f) (fun _ => I) (Ends I A) :=
    triple_then (k.send_only hf hw) (triple_pure fun _ hs => hs.keep)
  cases f with
  | read | rdsr => exact capture
  | wrsr | write | wrdi | wren | wake | sleep => exact send

/-- From a body that keeps `I`, the end of a well-formed instruction: never a fault, never a refusal. -/
theorem exec_keeps (hs : s.seq = .idle) (hw : i.wellFormed = true) (hI : I (s.accept i)) : Ended i I A (exec i s) := by
  have start : At I WorkRegs.empty (s.accept i) := ⟨hI, rfl, sized_empty⟩
  rcases frame_or_host i with ⟨f, rfl⟩ | hi
  · rw [frame_wellFormed] at hw
    rw [exec_frame, serialOp_idle hs hw]
    exact settle_ended (k.frameBody (sends_self f) hw) start fun _ _ ht => .released (frame_not_host f) ht
  · rw [exec_host hi, hostOp_idle hs hw]
    exact settle_ended k.hostBody start fun d _ ht => .answered (lawful_success d) ht

/-- As `exec_keeps`, from a next state that the instruction has answered. -/
theorem exec_next_keeps (h : exec i s = .next u) (hI : I (s.accept i)) :
    s.seq = .idle ∧ (i.wellFormed = false ∧ isHostOp i = true ∧ u = s.illegalOp ∨
      i.wellFormed = true ∧ Ended i I A (.next u)) := by
  cases hs : s.seq with
  | busy op n => rw [exec_busy i hs] at h; cases h
  | idle =>
    refine ⟨rfl, ?_⟩
    cases hw : i.wellFormed with
    | true => exact .inr ⟨rfl, h ▸ exec_keeps k hs hw hI⟩
    | false =>
      rw [exec_illFormed hs hw] at h
      split_ifs at h with hi
      cases h
      exact .inl ⟨rfl, hi, rfl⟩

end
/-! ## The machine invariant -/

/-- What the invariant says of the device: the array canonical and inside the device, and only a sleeping one waking. -/
structure SoundDevice (d : Device) : Prop where
  arrayWf : Memory.wf d.array
  arrayBounded : Memory.bounded d.array
  wakingAsleep : d.waking = true → d.asleep = true

/-- What is sound of a device that is there is sound of an absent one, which stays as it was. -/
theorem sound_ifPresent {d e : Device} (hd : SoundDevice d) (he : SoundDevice e) : SoundDevice (d.ifPresent e) := by
  rcases Device.ifPresent_cases d e with ⟨-, h⟩ | ⟨-, h⟩ <;> rw [h] <;> assumption

theorem wf_writeArray {d : Device} (h : SoundDevice d) (a : Nat) (l : List Byte) : Memory.wf (d.writeArray a l) := by
  unfold Device.writeArray
  split_ifs
  · exact Memory.wf_writeRange _ h.arrayWf a l
  · exact h.arrayWf

theorem bounded_writeArray {d : Device} (h : SoundDevice d) {a : Nat} {l : List Byte}
    (hr : a + l.length ≤ Config.deviceCapacity) : Memory.bounded (d.writeArray a l) := by
  unfold Device.writeArray
  split_ifs
  · exact Memory.bounded_writeRange _ h.arrayBounded hr
  · exact h.arrayBounded

/-- A WRITE frame that the block can send stays inside the array (20_memory.md R51). -/
theorem write_inside {addr : BusAddr} {l : List Byte} (h : (Frame.write addr l).wellFormed = true) :
    addr.toNat + l.length ≤ Config.deviceCapacity := of_decide_eq_true h

theorem sound_apply {d : Device} (h : SoundDevice d) (wp : Bool) {f : Frame} (hf : f.wellFormed = true) :
    SoundDevice (d.apply wp f) := by
  refine sound_ifPresent h ?_
  split_ifs with ha
  · cases f with
    | wake => exact ⟨h.arrayWf, h.arrayBounded, fun _ => ha⟩
    | wrsr | write | read | wrdi | rdsr | wren | sleep => exact h
  · cases f with
    | write addr l => exact ⟨wf_writeArray h _ _, bounded_writeArray h (write_inside hf), h.wakingAsleep⟩
    | sleep => exact ⟨h.arrayWf, h.arrayBounded, fun _ => rfl⟩
    | wrsr | wren | wrdi => exact ⟨h.arrayWf, h.arrayBounded, h.wakingAsleep⟩
    | read | rdsr | wake => exact h

theorem sound_cut {d : Device} (h : SoundDevice d) (draw : Nat) {f : Frame} (hf : f.wellFormed = true) :
    SoundDevice (d.cut draw f) := by
  refine sound_ifPresent h ?_
  cases f with
  | write addr l =>
    refine ⟨Memory.wf_writeRange _ h.arrayWf _ _, Memory.bounded_writeRange _ h.arrayBounded ?_, h.wakingAsleep⟩
    rw [oracleBytes_length]
    exact write_inside hf
  | sleep => exact ⟨h.arrayWf, h.arrayBounded, fun hw => by simp [h.wakingAsleep hw]⟩
  | wake => exact ⟨h.arrayWf, h.arrayBounded, fun hw => (Bool.and_eq_true_iff.1 hw).1⟩
  | wrsr | wren | wrdi => exact ⟨h.arrayWf, h.arrayBounded, h.wakingAsleep⟩
  | read | rdsr => exact h

theorem sound_elapse {d : Device} (h : SoundDevice d) (us : Nat) : SoundDevice (d.elapse us) := by
  refine sound_ifPresent h ?_
  split_ifs
  · exact ⟨h.arrayWf, h.arrayBounded, fun hw => hw⟩
  · exact h

theorem sound_powerCycle {d : Device} (h : SoundDevice d) (draw : Nat) : SoundDevice (d.powerCycle draw) :=
  sound_ifPresent h ⟨h.arrayWf, h.arrayBounded, fun hw => by cases hw⟩

theorem Invariant.soundDevice {s : State} (h : Invariant s) : SoundDevice s.dev :=
  ⟨h.arrayWf, h.arrayBounded, h.wakingAsleep⟩

/-- The invariant of a state with another sound device and chip-select as R22 asks, the rest as in a lawful one. -/
theorem Invariant.of_sound {s t : State} (h : Invariant s) (hd : SoundDevice t.dev) (hc : t.seq = .idle → t.cs = false)
    (hh : t.hold = s.hold) (hr : t.regs = s.regs) (hp : ∀ p ∈ t.response, p.lawful) : Invariant t :=
  ⟨hd.arrayWf, hd.arrayBounded, hc, hh.trans h.holdReleased, hr ▸ h.regsSized, hp, hd.wakingAsleep⟩

/-- A block as after reset is as the invariant asks, with any sound device. -/
theorem invariant_of_reset {s : State} (hd : SoundDevice s.dev) (hc : s.cs = false) (hh : s.hold = false)
    (hr : s.regs = WorkRegs.empty) (hp : s.response = none) : Invariant s :=
  ⟨hd.arrayWf, hd.arrayBounded, fun _ => hc, hh, hr ▸ sized_empty, by simp [hp], hd.wakingAsleep⟩

theorem invariant_powerLoss {s : State} (hd : SoundDevice s.dev) : Invariant s.powerLoss :=
  invariant_of_reset (sound_powerCycle hd _) rfl rfl rfl rfl

/-- The invariant while an operation is in progress. -/
def Running (s : State) : Prop := Invariant s ∧ s.seq ≠ .idle

theorem advance_ne_idle {q : Seq} (h : q ≠ .idle) (n : Nat) : q.advance n ≠ .idle := by
  cases q with
  | idle => exact absurd rfl h
  | busy op j => exact Seq.noConfusion

theorem running_of_sound {s t : State} (h : Running s) (hd : SoundDevice t.dev) (hq : t.seq ≠ .idle)
    (hh : t.hold = s.hold) (hr : t.regs = s.regs) (hp : t.response = s.response) : Running t :=
  ⟨h.1.of_sound hd (fun hi => absurd hi hq) hh hr (hp ▸ h.1.responseLawful), hq⟩

theorem invariant_struck {s : State} (h : Running s) (kind : MishapKind) : Invariant (s.struck kind) := by
  cases kind with
  | powerLoss => exact invariant_powerLoss h.1.soundDevice
  | busFault => exact h.1.of_sound h.1.soundDevice (fun _ => rfl) rfl rfl (by simp [State.struck])
  | hang => exact h.1

theorem running_cutTxn {s : State} (h : Running s) {f : Frame} (hf : f.wellFormed = true) (done : Nat) :
    Running (s.cutTxn f done) := by
  unfold State.cutTxn
  split_ifs
  · exact running_of_sound h h.1.soundDevice h.2 rfl rfl rfl
  · exact running_of_sound h (sound_cut h.1.soundDevice _ hf) (advance_ne_idle h.2 _) rfl rfl rfl

/-- Everything that an operation in progress does keeps the invariant, and so does a mishap during it. -/
theorem running_keeps (i : Instr) : Keeps i Running Invariant where
  regs hr h := ⟨{ h.1 with regsSized := hr }, h.2⟩
  txn _ hw h := running_of_sound h (sound_apply h.1.soundDevice _ hw) (advance_ne_idle h.2 _) rfl rfl rfl
  cut done _ hw h _ := invariant_struck (running_cutTxn h hw done) _
  delay _ _ us h := running_of_sound h (sound_elapse h.1.soundDevice us) (advance_ne_idle h.2 _) rfl rfl rfl
  lock _ _ h := running_of_sound h h.1.soundDevice (advance_ne_idle h.2 _) rfl rfl rfl
  strike {s _} h _ := invariant_struck (s := { s with mishap := none })
    (running_of_sound h h.1.soundDevice h.2 rfl rfl rfl) _
  mark _ _ _ _ h := running_of_sound h h.1.soundDevice h.2 rfl rfl rfl

theorem running_accept {s : State} (h : Invariant s) (i : Instr) : Running (s.accept i) :=
  ⟨{ h with csReleased := Seq.noConfusion, regsSized := sized_empty }, Seq.noConfusion⟩

theorem invariant_illegalOp {s : State} (h : Invariant s) : Invariant s.illegalOp :=
  { h with responseLawful := fun _ hp => by cases hp; exact lawful_failure _ }

theorem exec_keeps_invariant {i : Instr} {s t : State} (h : Invariant s) (he : exec i s = .next t) : Invariant t := by
  obtain ⟨-, ⟨-, -, rfl⟩ | ⟨-, hend⟩⟩ := exec_next_keeps (running_keeps i) he (running_accept h i)
  · exact invariant_illegalOp h
  · cases hend with
    | answered hp ht =>
      exact ht.1.of_sound ht.1.soundDevice (fun _ => rfl) rfl rfl fun _ hq => by cases hq; exact hp
    | released _ ht => exact ht.1.of_sound ht.1.soundDevice (fun _ => rfl) rfl rfl ht.1.responseLawful
    | abandoned ht => exact ht

theorem rejected_next {c : Code} {s t : State} (h : rejected c s = .next t) : t = s.illegalOp := by
  cases c with
  | request r =>
    cases hs : s.seq with
    | busy op k => simp only [rejected, hs] at h; cases h
    | idle => simp only [rejected, hs] at h; cases h; rfl
  | frame bytes => cases h

/-- Every way a step can answer a next state. -/
theorem step_next {s t : State} (h : step s = .next t) :
    (s.inputs = [] ∧ t = s) ∨ ∃ x rest, s.inputs = x :: rest ∧
      ((∃ c i, x = .code c ∧ decode c = .ok i ∧ exec i { s with inputs := rest } = .next t) ∨
        (∃ c, x = .code c ∧ t = State.illegalOp { s with inputs := rest }) ∨
        (x = .blockReset ∧ t = State.blockReset { s with inputs := rest }) ∨
        (x = .powerLoss ∧ t = State.powerLoss { s with inputs := rest }) ∨
        ∃ m, x = .arm m ∧ t = { s with inputs := rest, mishap := some m }) := by
  unfold step takeInput at h
  cases hi : s.inputs with
  | nil => rw [hi] at h; cases h; exact .inl ⟨rfl, rfl⟩
  | cons x rest =>
    rw [hi] at h
    refine .inr ⟨x, rest, rfl, ?_⟩
    cases x with
    | code c =>
      simp only [runInput, runCode] at h
      cases hd : decode c with
      | ok i => rw [hd] at h; exact .inl ⟨c, i, rfl, hd, h⟩
      | error e => rw [hd] at h; exact .inr (.inl ⟨c, rfl, rejected_next h⟩)
    | blockReset => cases h; exact .inr (.inr (.inl ⟨rfl, rfl⟩))
    | powerLoss => cases h; exact .inr (.inr (.inr (.inl ⟨rfl, rfl⟩)))
    | arm m => cases h; exact .inr (.inr (.inr (.inr ⟨m, rfl, rfl⟩)))

/-- Settles O10: whatever is presented, the invariant is kept; within an operation by `running_keeps`. -/
theorem stepKeepsTheInvariant : Obligations.StepKeepsTheInvariant := by
  intro s t h hstep
  rcases step_next hstep with ⟨-, rfl⟩ | ⟨x, rest, -, hx⟩
  · exact h
  have h' : Invariant { s with inputs := rest } := { h with }
  rcases hx with ⟨c, i, -, -, he⟩ | ⟨c, -, rfl⟩ | ⟨-, rfl⟩ | ⟨-, rfl⟩ | ⟨m, -, rfl⟩
  · exact exec_keeps_invariant h' he
  · exact invariant_illegalOp h'
  · exact invariant_of_reset h.soundDevice rfl rfl rfl rfl
  · exact invariant_powerLoss h'.soundDevice
  · exact { h with }

/-- Settles O9: the array of reset has no listed byte, and the block's values are those of R260. -/
theorem resetKeepsTheInvariant : Obligations.ResetKeepsTheInvariant :=
  invariant_of_reset ⟨.nil, (fun _ h => by cases h), (fun h => by cases h)⟩ rfl rfl rfl rfl

/-- Settles O13: both kinds of instruction look at the sequencer first. -/
theorem busyRefusesEveryOperation : Obligations.BusyRefusesEveryOperation :=
  fun i _ _ _ h => exec_busy i h

/-- Settles O55: the step is `State.powerLoss`, whose power cycle keeps the array (10_state.md R38). -/
theorem powerLossKeepsTheArray : Obligations.PowerLossKeepsTheArray := by
  intro s rest hi
  refine ⟨State.powerLoss { s with inputs := rest }, by simp only [step, takeInput, hi, runInput], ?_⟩
  simp

/-! ## No fault, and an answer to every request -/

/-- A checked decoding that answers has passed its check. -/
theorem checked_ok {b : Bool} {i j : Instr} {e : DecodeError}
    (h : (if b then Except.ok j else Except.error e) = Except.ok i) : b = true ∧ j = i := by
  cases b with
  | false => cases h
  | true => cases h; exact ⟨rfl, rfl⟩

theorem decodeOperands_ok {op : HostOp} {o : Operands} {i : Instr} (h : decodeOperands op o = .ok i) :
    isHostOp i = true ∧ i.wellFormed = true := by
  cases op
  case drvWrite =>
    cases o with
    | addrData addr data => obtain ⟨hw, rfl⟩ := checked_ok h; exact ⟨rfl, hw⟩
    | _ => cases h
  case drvSetBp =>
    cases o with
    | byte cfg => obtain ⟨hw, rfl⟩ := checked_ok h; exact ⟨rfl, hw⟩
    | _ => cases h
  case crc32 | recDecode | hdrValidate =>
    cases o with
    | bytes l => obtain ⟨hw, rfl⟩ := checked_ok h; exact ⟨rfl, hw⟩
    | _ => cases h
  all_goals
    cases o <;> cases h
    exact ⟨rfl, rfl⟩

theorem decodeRequest_ok {r : Request} {i : Instr} (h : decodeRequest r = .ok i) :
    isHostOp i = true ∧ i.wellFormed = true := by
  unfold decodeRequest at h
  split at h
  · cases h
  · exact decodeOperands_ok h

theorem decodeFrame_ok {l : List Byte} {f : Frame} (h : decodeFrame l = .ok f) : f.wellFormed = true := by
  unfold decodeFrame at h
  split at h
  · cases h
  · split at h
    · split_ifs at h with hw
      cases h
      exact hw
    · cases h

/-- What a code of either level decodes to is well formed. -/
theorem decode_wellFormed {c : Code} {i : Instr} (h : decode c = .ok i) : i.wellFormed = true := by
  cases c with
  | request r => exact (decodeRequest_ok h).2
  | frame l =>
    cases hf : decodeFrame l with
    | error e => simp [decode, hf, Except.map] at h
    | ok f =>
      have : f.instr = i := by simpa [decode, hf, Except.map] using h
      rw [← this, frame_wellFormed]
      exact decodeFrame_ok hf

theorem ended_not_fault {i : Instr} {I A : State → Prop} {f : Fault} : ¬ Ended i I A (.fault f) :=
  fun h => nomatch h

/-- There is something that every body keeps. -/
theorem true_keeps (i : Instr) : Keeps i (fun _ => True) (fun _ => True) where
  regs _ _ := trivial
  txn _ _ _ := trivial
  cut _ _ _ _ _ := trivial
  delay _ _ _ _ := trivial
  lock _ _ _ := trivial
  strike _ _ := trivial
  mark _ _ _ _ _ := trivial

/-- The one fault of an instruction: a frame that the block cannot send. -/
theorem exec_fault {i : Instr} {s : State} {f : Fault} (h : exec i s = .fault f) :
    i.wellFormed = false ∧ f = .noSuchAddress := by
  cases hs : s.seq with
  | busy op n => rw [exec_busy i hs] at h; cases h
  | idle =>
    cases hw : i.wellFormed with
    | true => exact absurd (h ▸ exec_keeps (true_keeps i) hs hw trivial) ended_not_fault
    | false =>
      rw [exec_illFormed hs hw] at h
      split_ifs at h
      cases h
      exact ⟨rfl, rfl⟩

theorem rejected_not_fault (c : Code) (s : State) (f : Fault) : rejected c s ≠ .fault f := by
  cases c with
  | frame l => exact nofun
  | request r => cases hs : s.seq <;> simp [rejected, hs]

/-- A step runs an instruction only after decoding it, so the fault of an ill-formed frame does not arise. -/
theorem step_safe (s : State) : StepSafe s := by
  intro f h
  unfold step takeInput at h
  split at h
  · cases h
  next x rest _ =>
    cases x with
    | code c =>
      simp only [runInput, runCode] at h
      cases hd : decode c with
      | ok i =>
        rw [hd] at h
        exact absurd (decode_wellFormed hd) (by simp [(exec_fault h).1])
      | error e => rw [hd] at h; exact rejected_not_fault _ _ _ h
    | blockReset | powerLoss | arm => cases h

/-- Settles O11: the registers are tracked through every body by `Keeps.hostBody`. -/
theorem noUnwrittenRegisterIsRead : Obligations.NoUnwrittenRegisterIsRead :=
  ⟨fun _ _ _ h => (nomatch (exec_fault h).2), step_safe⟩

/-- With no mishap armed, what a completed transaction, a wait, a lock, a register write and a mark each keep is kept by
every body, and nothing abandons it. -/
structure QuietKeeps (i : Instr) (I : State → Prop) : Prop where
  regs : ∀ {s : State} {r : WorkRegs}, I s → I { s with regs := r }
  txn : ∀ {s : State} {f : Frame}, Sends i f → I s → I (s.afterTxn f)
  delay : i = .drvSleep ∨ i = .drvWake → ∀ {s : State} (us : Nat), I s →
    I ({ s with dev := s.dev.elapse us : State }.afterAction (.delay us))
  lock : ∀ {s : State} {cfg : Byte}, i = .drvSetBp cfg → cfgHwLock cfg = true → I s →
    I ({ s with wp := true : State }.afterAction (.setWp true))
  mark : (∃ b, i = .storeWrite b) → ∀ {s : State} (x : Slot) (u : Option Unfinished), I s → I (s.setUnfinished x u)

theorem QuietKeeps.keeps {i : Instr} {I : State → Prop} (q : QuietKeeps i I) :
    Keeps i (fun s => s.mishap = none ∧ I s) (fun _ => False) where
  regs _ h := ⟨h.1, q.regs h.2⟩
  txn hf _ h := ⟨afterTxn_mishap_none h.1 _, q.txn hf h.2⟩
  cut _ _ _ h hm := by cases h.1.symm.trans hm
  delay hi _ us h := ⟨by simp [h.1], q.delay hi us h.2⟩
  lock hi hl h := ⟨by simp [h.1], q.lock hi hl h.2⟩
  strike h hm := by cases h.1.symm.trans hm
  mark hi _ x u h := ⟨h.1, q.mark hi x u h.2⟩

/-- With no mishap armed the body of a host operation ends normally or by raising an error. -/
theorem hostBody_quiet {i : Instr} {I : State → Prop} {s : State} (q : QuietKeeps i I) (hm : s.mishap = none)
    (hI : I (s.accept i)) :
    (∃ d t, hostBody i (s.accept i) = .ok d t ∧ I t) ∨ ∃ c t, hostBody i (s.accept i) = .stop (.raised c) t ∧ I t := by
  have start : At (fun u => u.mishap = none ∧ I u) WorkRegs.empty (s.accept i) := ⟨⟨hm, hI⟩, rfl, sized_empty⟩
  cases hb : hostBody i (s.accept i) with
  | ok d t => exact .inl ⟨d, t, rfl, (triple_ok q.keeps.hostBody start hb).2⟩
  | stop e t =>
    have ends := triple_stop q.keeps.hostBody start hb
    cases e with
    | raised c => exact .inr ⟨c, t, rfl, ends.2⟩
    | abandoned => exact ends.elim
    | faulted f => exact ends.elim

/-- Every host operation accepted with no mishap armed completes with a response. -/
theorem exec_host_answers {i : Instr} {I : State → Prop} {s : State} (q : QuietKeeps i I) (hi : isHostOp i = true)
    (hw : i.wellFormed = true) (hs : s.ready) (hI : I (s.accept i)) :
    ∃ t p, exec i s = .next (State.respond t p) ∧ I t := by
  rw [exec_host hi]
  rcases hostBody_quiet q hs.2 hI with ⟨d, t, hb, ht⟩ | ⟨c, t, hb, ht⟩
  · exact ⟨t, _, hostOp_ok hs.1 hw hb, ht⟩
  · exact ⟨t, _, hostOp_raised hs.1 hw hb, ht⟩

theorem inputs_quietKeeps (i : Instr) (l : List Input) : QuietKeeps i (fun s => s.inputs = l) where
  regs h := h
  txn _ h := h
  delay _ _ _ h := h
  lock _ _ h := h
  mark _ _ _ _ h := h

/-- Settles O14: what does not decode is answered ILLEGAL_OP, what does is a host operation and completes. -/
theorem everyRequestIsAnswered : Obligations.EveryRequestIsAnswered := by
  intro s r rest hs hcs hi
  have hstep : step s = runCode (.request r) { s with inputs := rest } := by
    simp only [step, takeInput, hi, runInput]
  rw [hstep, runCode]
  cases hd : decode (.request r) with
  | error e =>
    refine ⟨State.illegalOp { s with inputs := rest }, by simp only [rejected, hs.1], hs.1, hcs, ?_, rfl⟩
    exact Option.some_ne_none _
  | ok i =>
    obtain ⟨hh, hw⟩ := decodeRequest_ok hd
    obtain ⟨t, p, he, hin⟩ := exec_host_answers (inputs_quietKeeps i rest) hh hw (s := { s with inputs := rest }) hs rfl
    exact ⟨t.respond p, he, rfl, rfl, Option.some_ne_none _, hin⟩

/-! ## The lines and the locked status register -/

/-- DRV_SET_BP's body with no mishap armed raises WP when it locks, and never drives HOLD (40_driver.md R124). -/
theorem setBlockProtect_lines {s : State} (hm : s.mishap = none) (cfg : Byte) :
    ∃ t, setBlockProtect cfg s = .ok () t ∧ t.hold = s.hold ∧ t.wp = (s.wp || cfgHwLock cfg) := by
  have drive : ∀ u : State, u.mishap = none →
      ∃ v, (if cfgHwLock cfg then driveWp true else Op.pure ()) u = .ok () v ∧ v.mishap = none ∧ v.regs = u.regs ∧
        v.hold = u.hold ∧ v.wp = (u.wp || cfgHwLock cfg) := by
    intro u hu
    cases hl : cfgHwLock cfg with
    | false => exact ⟨u, rfl, hu, rfl, rfl, by simp⟩
    | true => exact ⟨_, driveWp_ok hu true, hu, rfl, rfl, by simp⟩
  unfold setBlockProtect
  rw [op_bind_ok (readStatus_explicit hm), op_then_ok (setSrTmp_run _ _)]
  obtain ⟨v, hv, hvm, hvr, hvh, hvw⟩ := drive { s with
    cs := false, seq := s.seq.advance 4, draws := s.draws + 2
    regs := { s.regs with
      rx := some [s.dev.seenStatus s.draws]
      srTmp := some (newStatus (s.dev.seenStatus s.draws) (cfgLevel cfg) (cfgHwLock cfg)) }
    trace := s.trace ++ [.txn [0x05#8, 0x00#8] [s.dev.seenStatus s.draws]] } hm
  rw [op_then_ok hv, op_bind_ok (getSrTmp_some (by rw [hvr])), writeStatus_explicit hvm]
  exact ⟨_, rfl, hvh, hvw⟩

/-- All but a DRV_SET_BP leave WP and HOLD as they are. -/
theorem lines_quietKeeps {i : Instr} (hi : ∀ cfg, i ≠ .drvSetBp cfg) (wp hold : Bool) :
    QuietKeeps i (fun s => s.hold = hold ∧ s.wp = wp) where
  regs h := h
  txn _ h := h
  delay _ _ _ h := h
  lock hc _ _ := absurd hc (hi _)
  mark _ _ _ _ h := h

theorem exec_keeps_lines {i : Instr} {s t : State} (hi : ∀ cfg, i ≠ .drvSetBp cfg) (hs : s.ready)
    (h : exec i s = .next t) : t.hold = s.hold ∧ t.wp = s.wp := by
  obtain ⟨-, ⟨-, -, rfl⟩ | ⟨-, hend⟩⟩ :=
    exec_next_keeps (lines_quietKeeps hi s.wp s.hold).keeps h ⟨hs.2, rfl, rfl⟩
  · exact ⟨rfl, rfl⟩
  · cases hend with
    | answered _ ht => exact ht.2
    | released _ ht => exact ht.2
    | abandoned ht => exact ht.elim

theorem exec_drvSetBp_lines {cfg : Byte} {s t : State} (hs : s.ready) (hw : (Instr.drvSetBp cfg).wellFormed = true)
    (h : exec (.drvSetBp cfg) s = .next t) : t.hold = s.hold ∧ t.wp = (s.wp || cfgHwLock cfg) := by
  obtain ⟨u, hu, hlines⟩ := setBlockProtect_lines (s := s.accept (.drvSetBp cfg)) hs.2 cfg
  have hbody : hostBody (.drvSetBp cfg) (s.accept (.drvSetBp cfg)) = .ok .empty u := op_then_ok hu
  rw [exec_host rfl, hostOp_ok hs.1 hw hbody] at h
  cases h
  exact hlines

/-- Settles O17: WP moves by the line change of a locking DRV_SET_BP only, and no instruction sends one of HOLD. -/
theorem onlyLockingRaisesWp : Obligations.OnlyLockingRaisesWp := by
  intro i s t hs h
  by_cases hi : ∃ cfg, i = .drvSetBp cfg
  · obtain ⟨cfg, rfl⟩ := hi
    cases hw : (Instr.drvSetBp cfg).wellFormed with
    | true =>
      obtain ⟨hhold, hwp⟩ := exec_drvSetBp_lines hs hw h
      exact ⟨hhold, .inl ⟨cfg, rfl, rfl, hwp⟩⟩
    | false =>
      rw [exec_illFormed hs.1 hw] at h
      cases h
      exact ⟨rfl, .inr ⟨fun _ _ => rfl, rfl⟩⟩
  · have hne : ∀ cfg, i ≠ .drvSetBp cfg := fun cfg hc => hi ⟨cfg, hc⟩
    obtain ⟨hhold, hwp⟩ := exec_keeps_lines hne hs h
    exact ⟨hhold, .inr ⟨fun cfg hc => absurd hc (hne cfg), hwp⟩⟩

/-- The status register is locked (10_state.md R35), its bits but WEL being `m`: SRWD set, WP asserted and wired. -/
structure Locked (m : Byte) (s : State) : Prop where
  wp : s.wp = true
  wired : s.dev.params.wpWired = true
  srwd : srwd s.dev.sr = true
  bits : s.dev.sr &&& 0xFD#8 = m

theorem srwd_setWel (x : Byte) (b : Bool) : srwd (setWel x b) = srwd x := by
  cases b <;> simp [setWel, srwd]

theorem bits_setWel (x : Byte) (b : Bool) : setWel x b &&& 0xFD#8 = x &&& 0xFD#8 := by
  cases b with
  | true => exact set_clear x
  | false => simp [setWel, BitVec.and_assoc]

/-- Two status bytes that differ at most in WEL. -/
def SameButWel (x y : Byte) : Prop := srwd x = srwd y ∧ x &&& 0xFD#8 = y &&& 0xFD#8

theorem sameButWel_refl (x : Byte) : SameButWel x x := ⟨rfl, rfl⟩

theorem sameButWel_setWel (x : Byte) (b : Bool) : SameButWel (setWel x b) x := ⟨srwd_setWel x b, bits_setWel x b⟩

theorem sameButWel_welAfterWrite (d : Device) (x : Byte) : SameButWel (d.welAfterWrite x) x := by
  unfold Device.welAfterWrite
  split_ifs
  · exact sameButWel_setWel x false
  · exact sameButWel_refl x

/-- A locked device ignores the value of a WRSR. -/
theorem writeStatus_locked {d : Device} (hw : d.params.wpWired = true) (hs : srwd d.sr = true) (v : Byte) :
    d.writeStatus true v = d.sr := by
  simp [Device.writeStatus, Device.wpSeen, hw, hs]

/-- No frame changes a status bit of a locked device but WEL. -/
theorem apply_locked {d : Device} (hw : d.params.wpWired = true) (hs : srwd d.sr = true) (f : Frame) :
    SameButWel (d.apply true f).sr d.sr := by
  unfold Device.apply
  rcases Device.ifPresent_cases d _ with ⟨-, he⟩ | ⟨-, he⟩
  swap
  · rw [he]; exact sameButWel_refl _
  rw [he]
  split_ifs
  · cases f <;> exact sameButWel_refl _
  · cases f with
    | wrsr v =>
      show SameButWel (d.welAfterWrite (d.writeStatus true v)) d.sr
      rw [writeStatus_locked hw hs]
      exact sameButWel_welAfterWrite d d.sr
    | write addr l => exact sameButWel_welAfterWrite d d.sr
    | wren => exact sameButWel_setWel d.sr true
    | wrdi => exact sameButWel_setWel d.sr false
    | sleep | read | rdsr | wake => exact sameButWel_refl _

theorem locked_quietKeeps (i : Instr) (m : Byte) : QuietKeeps i (Locked m) where
  regs h := { h with }
  txn {s f} _ h := by
    obtain ⟨hsrwd, hbits⟩ := apply_locked h.wired h.srwd f
    have hd : (s.afterTxn f).dev = s.dev.apply true f := by rw [State.afterTxn_dev, h.wp]
    exact ⟨h.wp, by rw [hd, Device.apply_params, h.wired], by rw [hd, hsrwd, h.srwd], by rw [hd, hbits, h.bits]⟩
  delay _ _ _ h := ⟨h.wp, by simp [h.wired], by simp [h.srwd], by simp [h.bits]⟩
  lock _ _ h := { h with wp := rfl }
  mark _ _ _ _ h := { h with }

/-- Settles O19: every frame and every line change keeps `Locked`. -/
theorem lockedStatusStaysLocked : Obligations.LockedStatusStaysLocked := by
  intro i s t hs hwp hwired hsrwd h
  have start : Locked (s.dev.sr &&& 0xFD#8) s := ⟨hwp, hwired, hsrwd, rfl⟩
  have stays : Locked (s.dev.sr &&& 0xFD#8) t := by
    obtain ⟨-, ⟨-, -, rfl⟩ | ⟨-, hend⟩⟩ :=
      exec_next_keeps (locked_quietKeeps i _).keeps h ⟨hs.2, { start with }⟩
    · exact { start with }
    · cases hend with
      | answered _ ht => exact { ht.2 with }
      | released _ ht => exact { ht.2 with }
      | abandoned ht => exact ht.elim
  exact ⟨stays.wp, stays.wired, stays.bits⟩

/-! ## What a body cannot see

A body is blind to what `g` forgets of a state when it runs alike, up to `g`, from the state and from what `g` makes of
it. -/

/-- How a body ends, its state seen through `g`. -/
def Res.mapState {α : Type} (g : State → State) : Res α → Res α
  | .ok a t => .ok a (g t)
  | .stop e t => .stop e (g t)

/-- The body runs alike from a state and from what `g` leaves of it. -/
def Blind {α : Type} (g : State → State) (x : Op α) : Prop := ∀ s, (x s).mapState g = (x (g s)).mapState g

/-- `g` forgets once and for all, and nothing of the working registers. -/
structure Forgets (g : State → State) : Prop where
  idem : ∀ s, g (g s) = g s
  regs : ∀ s, (g s).regs = s.regs
  setRegs : ∀ s r, g { g s with regs := r } = g { s with regs := r }

section Blindness

variable {g : State → State} {α β : Type}

theorem mapState_eq_ok {x : Res α} {a : α} {t : State} (h : Res.mapState g (.ok a t) = x.mapState g) :
    ∃ t', x = .ok a t' ∧ g t' = g t := by
  cases x with
  | ok b t' =>
    injection h with ha ht
    exact ⟨t', by rw [ha], ht.symm⟩
  | stop e t' => cases h

theorem mapState_eq_stop {x : Res α} {e : Stop} {t : State} (h : Res.mapState g (.stop e t) = x.mapState g) :
    ∃ t', x = .stop e t' ∧ g t' = g t := by
  cases x with
  | ok b t' => cases h
  | stop e' t' =>
    injection h with he ht
    exact ⟨t', by rw [he], ht.symm⟩

/-- A blind body runs alike from any two states that `g` does not tell apart. -/
theorem Blind.run {x : Op α} (hx : Blind g x) {s t : State} (h : g s = g t) :
    (x s).mapState g = (x t).mapState g := by
  rw [hx s, hx t, h]

theorem blind_bind {x : Op α} {f : α → Op β} (hx : Blind g x) (hf : ∀ a, Blind g (f a)) : Blind g (x.bind f) := by
  intro s
  cases hs : x s with
  | ok a t =>
    obtain ⟨t', ht', hg⟩ := mapState_eq_ok (hs ▸ hx s)
    rw [op_bind_ok hs, op_bind_ok ht']
    exact (hf a).run hg.symm
  | stop e t =>
    obtain ⟨t', ht', hg⟩ := mapState_eq_stop (hs ▸ hx s)
    rw [op_bind_stop hs, op_bind_stop ht']
    exact congrArg (Res.stop e) hg.symm

theorem blind_then {x : Op α} {y : Op β} (hx : Blind g x) (hy : Blind g y) : Blind g (x.andThen y) :=
  blind_bind hx fun _ => hy

/-- A transaction is blind to what changes neither its mishap, nor what it captures, nor what it leaves. -/
theorem blind_txn {f : Frame} (hm : ∀ s, (g s).mishap = s.mishap)
    (hrx : ∀ s, capturedBytes f ((g s).dev.incoming (g s).draws f) = capturedBytes f (s.dev.incoming s.draws f))
    (hok : ∀ s, g (s.afterTxn f) = g ((g s).afterTxn f))
    (hcut : ∀ s done kind, g ((s.cutTxn f done).struck kind) = g (((g s).cutTxn f done).struck kind)) :
    Blind g (txn f) := by
  intro s
  rcases txn_cases f s with ⟨h, hn⟩ | ⟨m, done, hs, hf, h⟩
  · rcases txn_cases f (g s) with ⟨h', -⟩ | ⟨m, done, hs', hf, -⟩
    · rw [h, h', hrx s]
      exact congrArg (Res.ok _) (hok s)
    · cases (hn m ((hm s).symm.trans hs')).symm.trans hf
  · rcases txn_cases f (g s) with ⟨-, hn⟩ | ⟨m', done', hs', hf', h'⟩
    · cases (hn m ((hm s).trans hs)).symm.trans hf
    · cases hs.symm.trans ((hm s).symm.trans hs')
      cases hf.symm.trans hf'
      rw [h, h']
      exact congrArg (Res.stop _) (hcut s done m.kind)

variable (k : Forgets g)
include k

theorem Forgets.pure (a : α) : Blind g (Op.pure a) := fun s => congrArg (Res.ok a) (k.idem s).symm

theorem Forgets.raise (c : ResultCode) : Blind g (Machine.raise (α := α) c) :=
  fun s => congrArg (Res.stop (.raised c)) (k.idem s).symm

/-- A check of something that is not in the state. -/
theorem Forgets.check (p : Prop) [Decidable p] (c : ResultCode) :
    Blind g (fun s => if p then .ok () s else .stop (.raised c) s) := by
  intro s
  dsimp only
  split_ifs
  · exact k.pure () s
  · exact k.raise (α := Unit) c s

theorem Forgets.read (n : WorkReg) (get : WorkRegs → Option α) : Blind g (readReg n get) := by
  intro s
  unfold readReg
  rw [k.regs s]
  cases get s.regs with
  | none => exact congrArg (Res.stop _) (k.idem s).symm
  | some v => exact congrArg (Res.ok v) (k.idem s).symm

theorem Forgets.write (upd : WorkRegs → WorkRegs) : Blind g (writeRegs upd) := by
  intro s
  simp only [writeRegs_run, k.regs, Res.mapState, k.setRegs]

theorem Forgets.memRead (hr : ∀ a n, Blind g (txn (.read a n))) (addr : Word) (n : Nat) : Blind g (memRead addr n) :=
  blind_then (k.check _ .range) (blind_bind (hr _ _) fun _ => blind_then (k.write _) (k.read _ _))

theorem Forgets.readHdr (hr : ∀ a n, Blind g (txn (.read a n))) (x : Slot) : Blind g (readHdr x) := by
  have hbuf : Blind g (getHbuf x) := by cases x <;> exact k.read _ _
  refine blind_bind (k.memRead hr _ _) fun l => blind_then ?_ (blind_bind hbuf fun h => ?_)
  · rw [setHbuf_eq]; exact k.write _
  · rw [setHdr_eq]; exact k.write _

theorem Forgets.crcRun (data : List Byte) : Blind g (crcRun data) :=
  blind_then (k.write _) (blind_bind (k.read _ _) fun _ => k.pure _)

theorem Forgets.checkCount (p : Nat) : Blind g (checkCount p) := by
  intro s
  unfold Machine.checkCount
  split_ifs
  · exact k.raise (α := Unit) .overflow s
  · exact k.pure () s

theorem Forgets.codecEncode (b : Bureau) : Blind g (codecEncode b) :=
  blind_then (k.checkCount _) (blind_then (k.write _) (k.read _ _))

theorem Forgets.codecDecode (b : List Byte) : Blind g (codecDecode b) :=
  blind_then (k.checkCount _) (k.pure _)

theorem Forgets.readPayload (hr : ∀ a n, Blind g (txn (.read a n))) (h : Header) : Blind g (readPayload h) := by
  refine blind_bind (k.read _ _) fun x => blind_bind (k.memRead hr _ _) fun l => blind_then (k.write _) ?_
  refine blind_bind (k.read _ _) fun p => blind_bind (k.crcRun p) fun c => blind_then (k.write _) ?_
  exact blind_bind (k.read _ _) fun c => k.check _ .integrity

/-- STORE_READ sees of the state what its READ frames see. -/
theorem Forgets.storeRead (hr : ∀ a n, Blind g (txn (.read a n))) : Blind g storeRead := by
  refine blind_then (k.readHdr hr .A) (blind_then (k.readHdr hr .B) ?_)
  refine blind_bind (k.read _ _) fun ha => blind_bind (k.read _ _) fun hb => ?_
  unfold readPick
  cases pick ha hb with
  | none => exact k.raise .notFound
  | some p =>
    refine blind_then (k.write _) (blind_then (k.check _ .format) (blind_then (k.readPayload hr p.2) ?_))
    exact blind_bind (k.read _ _) fun b => blind_bind (k.codecDecode b) fun r => k.pure _

end Blindness

/-! ### The response and chip-select -/

/-- The state without what an earlier operation left of its response and of chip-select. -/
def State.forgetAnswer (s : State) : State := { s with response := none, cs := false }

theorem forgetAnswer_forgets : Forgets State.forgetAnswer where
  idem _ := rfl
  regs _ := rfl
  setRegs _ _ := rfl

/-- No transaction sees the response or chip-select, with or without a mishap. -/
theorem txn_blind (f : Frame) : Blind State.forgetAnswer (txn f) :=
  blind_txn (fun _ => rfl) (fun _ => rfl) (fun _ => rfl) fun s done kind => by
    unfold State.cutTxn
    cases kind <;> split_ifs <;> rfl

theorem action_blind {ev : BusEvent} {upd : State → State}
    (hu : ∀ s, (upd s).forgetAnswer = (upd s.forgetAnswer).forgetAnswer) :
    Blind State.forgetAnswer (action ev upd) := by
  intro s
  have struck : ∀ kind, (State.struck { s with mishap := none } kind).forgetAnswer =
      (State.struck { s.forgetAnswer with mishap := none } kind).forgetAnswer := fun kind => by cases kind <;> rfl
  rcases action_cases ev upd s with ⟨h, hm⟩ | ⟨m, hm, hf, h⟩
  · rcases action_cases ev upd s.forgetAnswer with ⟨h', -⟩ | ⟨m, hm', hf, -⟩
    · rw [h, h']
      exact congrArg (fun u => Res.ok () (State.afterAction u ev)) (hu s)
    · cases (hm m hm').symm.trans hf
  · rcases action_cases ev upd s.forgetAnswer with ⟨-, hm'⟩ | ⟨m', hm', hf', h'⟩
    · cases (hm' m hm).symm.trans hf
    · cases hm.symm.trans hm'
      rw [h, h']
      exact congrArg (Res.stop _) (struck m.kind)

theorem writeEnable_blind : Blind State.forgetAnswer writeEnable :=
  blind_then (txn_blind _) (forgetAnswer_forgets.pure _)

theorem memWrite_blind (addr : Word) (data : List Byte) : Blind State.forgetAnswer (memWrite addr data) :=
  blind_then (forgetAnswer_forgets.check _ .range) (blind_then writeEnable_blind
    (blind_then (txn_blind _) (forgetAnswer_forgets.pure _)))

theorem readStatus_blind : Blind State.forgetAnswer readStatus :=
  blind_bind (txn_blind _) fun _ => blind_then (forgetAnswer_forgets.write _)
    (blind_bind (forgetAnswer_forgets.read _ _) fun _ => forgetAnswer_forgets.pure _)

theorem writeStatus_blind (v : Byte) : Blind State.forgetAnswer (writeStatus v) :=
  blind_then writeEnable_blind (blind_then (txn_blind _) (forgetAnswer_forgets.pure _))

theorem setBlockProtect_blind (cfg : Byte) : Blind State.forgetAnswer (setBlockProtect cfg) := by
  refine blind_bind readStatus_blind fun sr => blind_then (forgetAnswer_forgets.write _) (blind_then ?_ ?_)
  · split_ifs
    · exact action_blind fun _ => rfl
    · exact forgetAnswer_forgets.pure _
  · exact blind_bind (forgetAnswer_forgets.read _ _) fun v => writeStatus_blind v

theorem storeWrite_blind (b : Bureau) : Blind State.forgetAnswer (storeWrite b) := by
  have k := forgetAnswer_forgets
  have prepare : Blind State.forgetAnswer (preparePayload b) :=
    blind_then (k.codecEncode b) (blind_bind (k.read _ _) fun p => blind_bind (k.crcRun p) fun _ => k.write _)
  have choose : Blind State.forgetAnswer chooseTarget :=
    blind_bind (k.read _ _) fun _ => blind_bind (k.read _ _) fun _ => blind_then (k.write _) (k.write _)
  have payload : Blind State.forgetAnswer writePayload :=
    blind_bind (k.read _ _) fun _ => blind_bind (k.read _ _) fun _ => blind_then (memWrite_blind _ _) fun _ => rfl
  have header : Blind State.forgetAnswer writeHeader :=
    blind_bind (k.read _ _) fun _ => blind_bind (k.read _ _) fun _ => blind_bind (k.read _ _) fun _ =>
      blind_then (memWrite_blind _ _) fun _ => rfl
  have hdr : ∀ x, Blind State.forgetAnswer (readHdr x) := k.readHdr fun _ _ => txn_blind _
  exact blind_then prepare (blind_then (hdr .A) (blind_then (hdr .B) (blind_then choose (blind_then payload
    (blind_then header (k.read _ _))))))

/-- No host operation sees the response or chip-select that an earlier one left. -/
theorem hostBody_blind (i : Instr) : Blind State.forgetAnswer (hostBody i) := by
  have k := forgetAnswer_forgets
  cases i with
  | drvRead addr n => exact blind_bind (k.memRead (fun _ _ => txn_blind _) _ _) fun _ => k.pure _
  | drvWrite addr data => exact blind_then (memWrite_blind addr data) (k.pure _)
  | drvRdsr => exact blind_bind readStatus_blind fun _ => k.pure _
  | drvWrsr v => exact blind_then (writeStatus_blind v) (k.pure _)
  | drvWren | drvWrdi => exact blind_then (txn_blind _) (k.pure _)
  | drvSleep | drvWake =>
    exact blind_then (txn_blind _) (blind_then (action_blind fun _ => rfl) (k.pure _))
  | drvSetBp cfg => exact blind_then (setBlockProtect_blind cfg) (k.pure _)
  | crc32 data => exact blind_bind (k.crcRun data) fun _ => k.pure _
  | recEncode b => exact blind_bind (k.codecEncode b) fun _ => k.pure _
  | recDecode b => exact blind_bind (k.codecDecode b) fun _ => k.pure _
  | storeWrite b => exact blind_bind (storeWrite_blind b) fun _ => k.pure _
  | storeRead => exact k.storeRead fun _ _ => txn_blind _
  | hdrValidate | hdrEncode | wrsr | write | read | wrdi | rdsr | wren | wake | sleep => exact k.pure _

/-- Two runs of a host operation whose body cannot tell their states apart: alike as far as `g` remembers, and with the
same response. -/
theorem exec_host_alike {g : State → State} {i : Instr} {s u : State} (hb : Blind g (hostBody i))
    (hi : isHostOp i = true) (hw : i.wellFormed = true) (hs : s.ready) (hu : u.seq = .idle) (h : g (s.accept i) = g (u.accept i)) :
    ∃ t v p, g t = g v ∧ exec i s = .next (t.respond p) ∧ exec i u = .next (v.respond p) := by
  have alike := hb.run h
  rw [exec_host hi, exec_host hi]
  rcases hostBody_quiet (inputs_quietKeeps i s.inputs) hs.2 rfl with ⟨d, t, ht, -⟩ | ⟨c, t, ht, -⟩ <;>
    rw [ht] at alike
  · obtain ⟨v, hv, hg⟩ := mapState_eq_ok alike
    exact ⟨t, v, _, hg.symm, hostOp_ok hs.1 hw ht, hostOp_ok hu hw hv⟩
  · obtain ⟨v, hv, hg⟩ := mapState_eq_stop alike
    exact ⟨t, v, _, hg.symm, hostOp_raised hs.1 hw ht, hostOp_raised hu hw hv⟩

/-- A response overwrites what `forgetAnswer` forgets. -/
theorem respond_forgetAnswer (s : State) (p : Response) : s.forgetAnswer.respond p = s.respond p := rfl

/-- Settles O12: acceptance empties the registers, and the body sees neither the response nor chip-select. -/
theorem operationsForgetEarlierOnes : Obligations.OperationsForgetEarlierOnes := by
  intro i s regs response cs hs hi hw
  obtain ⟨t, v, p, hg, ht, hv⟩ := exec_host_alike (u := { s with regs := regs, response := response, cs := cs })
    (hostBody_blind i) hi hw hs hs.1 rfl
  rw [ht, hv, ← respond_forgetAnswer t, hg, respond_forgetAnswer]

/-! ### A reset of the block -/

/-- The state without what a reset of the block changes in it, and without what is presented next (R260). -/
def State.forgetBlock (s : State) : State :=
  { s with response := none, cs := false, wp := false, hold := false, inputs := [] }

theorem forgetBlock_forgets : Forgets State.forgetBlock where
  idem _ := rfl
  regs _ := rfl
  setRegs _ _ := rfl

/-- A READ does not see what a reset of the block changes: the device takes it whatever the write-protect line. -/
theorem read_blind (addr : BusAddr) (n : Nat) : Blind State.forgetBlock (txn (.read addr n)) := by
  refine blind_txn (fun _ => rfl) (fun _ => rfl) (fun s => ?_) fun s done kind => ?_
  · simp [State.forgetBlock, State.afterTxn]
  · unfold State.cutTxn
    cases kind <;> split_ifs <;> rfl

/-- A STORE_READ leaves the device as it is (20_memory.md R64): it sends READ frames only. -/
theorem storeRead_device (d : Device) : QuietKeeps .storeRead (fun s => s.dev = d) where
  regs h := h
  txn {s f} hf h := by
    cases f with
    | read addr n => rw [State.afterTxn_dev, Device.apply_read, h]
    | _ => simp at hf
  delay hc := by simp at hc
  lock hc _ _ := by cases hc
  mark _ _ _ _ h := h

theorem exec_storeRead_device {s t : State} (hs : s.ready) (h : exec .storeRead s = .next t) : t.dev = s.dev := by
  obtain ⟨u, p, hu, hd⟩ := exec_host_answers (storeRead_device s.dev) rfl rfl hs rfl
  cases h.symm.trans hu
  exact hd

/-- Settles O50: the body of STORE_READ cannot tell the reset state from the one before. -/
theorem reopenedStoreAnswersTheSame : Obligations.ReopenedStoreAnswersTheSame := by
  intro s rest hs hi
  have hstep : step s = .next (State.blockReset { s with inputs := rest }) := by
    simp only [step, takeInput, hi, runInput]
  obtain ⟨t, v, p, -, ht, hv⟩ := exec_host_alike (u := State.blockReset { s with inputs := rest })
    (forgetBlock_forgets.storeRead read_blind) (i := .storeRead) rfl rfl hs rfl rfl
  have hdev := exec_storeRead_device (s := State.blockReset { s with inputs := rest }) ⟨rfl, hs.2⟩ hv
  exact ⟨_, _, _, ht, hstep, hv, rfl, rfl, hdev⟩

end Sys2Proof.Machine

/-! # Proofs of the memory family (20_memory.md)

## What each serial command leaves alone in the device -/

namespace Sys2Proof.Machine

/-- Only WRITE changes the data array (20_memory.md R50). -/
theorem apply_array {f : Frame} (hf : frameKind f ≠ .write) (d : Device) (wp : Bool) :
    (d.apply wp f).array = d.array := by
  refine Device.ifPresent_keeps Device.array ?_
  cases f with
  | write => exact absurd rfl hf
  | wrsr | read | wrdi | rdsr | wren | wake | sleep => split <;> rfl

/-- Only WRSR, the latch commands and WRITE (`WEL_AUTO_CLEAR`) change the status register (10_state.md R36). -/
theorem apply_sr {f : Frame} (hf : frameKind f ∉ [.wrsr, .write, .wrdi, .wren]) (d : Device) (wp : Bool) :
    (d.apply wp f).sr = d.sr := by
  refine Device.ifPresent_keeps Device.sr ?_
  cases f with
  | wrsr | write | wrdi | wren => simp at hf
  | read | rdsr | wake | sleep => split <;> rfl

/-- Only SLEEP and WAKE change the sleep state (10_state.md R39). -/
theorem apply_sleepState {f : Frame} (hf : frameKind f ∉ [.sleep, .wake]) (d : Device) (wp : Bool) :
    ((d.apply wp f).asleep, (d.apply wp f).waking) = (d.asleep, d.waking) := by
  refine Device.ifPresent_keeps (fun e => (e.asleep, e.waking)) ?_
  cases f with
  | sleep | wake => simp at hf
  | wrsr | write | read | wrdi | rdsr | wren => split <;> rfl

/-! ## Which instructions send none of the commands that change a part of the device -/

section

variable {i : Instr} {op : FrameOp}

/-- Only a WRITE, a DRV_WRITE and a STORE_WRITE send WRITE. -/
theorem sends_no_write (h₁ : ∀ a l, i ≠ .write a l) (h₂ : ∀ a l, i ≠ .drvWrite a l) (h₃ : ∀ r, i ≠ .storeWrite r)
    (hop : op ∈ sentKinds i) : op ≠ .write := by
  rintro rfl
  cases i with
  | write a l => exact h₁ a l rfl
  | drvWrite a l => exact h₂ a l rfl
  | storeWrite r => exact h₃ r rfl
  | _ => simp at hop

/-- Only the latch, write and status instructions send what changes SR. -/
theorem sends_no_status (h₁ : ∀ v, i ≠ .wrsr v) (h₂ : ∀ a l, i ≠ .write a l) (h₃ : i ≠ .wrdi) (h₄ : i ≠ .wren)
    (h₅ : ∀ a l, i ≠ .drvWrite a l) (h₆ : ∀ v, i ≠ .drvWrsr v) (h₇ : i ≠ .drvWren) (h₈ : i ≠ .drvWrdi)
    (h₉ : ∀ c, i ≠ .drvSetBp c) (h₁₀ : ∀ r, i ≠ .storeWrite r) (hop : op ∈ sentKinds i) :
    op ∉ [.wrsr, .write, .wrdi, .wren] := by
  cases i with
  | wrsr v => exact absurd rfl (h₁ v)
  | write a l => exact absurd rfl (h₂ a l)
  | wrdi => exact absurd rfl h₃
  | wren => exact absurd rfl h₄
  | drvWrite a l => exact absurd rfl (h₅ a l)
  | drvWrsr v => exact absurd rfl (h₆ v)
  | drvWren => exact absurd rfl h₇
  | drvWrdi => exact absurd rfl h₈
  | drvSetBp c => exact absurd rfl (h₉ c)
  | storeWrite r => exact absurd rfl (h₁₀ r)
  | crc32 | recEncode | recDecode | hdrValidate | hdrEncode => simp at hop
  | read | drvRead | storeRead | rdsr | drvRdsr | wake | drvWake | sleep | drvSleep =>
    rw [List.mem_singleton.1 hop]
    decide

/-- Only SLEEP, WAKE, DRV_SLEEP and DRV_WAKE send SLEEP or WAKE. -/
theorem sends_no_sleep (h₁ : i ≠ .sleep) (h₂ : i ≠ .wake) (h₃ : i ≠ .drvSleep) (h₄ : i ≠ .drvWake)
    (hop : op ∈ sentKinds i) : op ∉ [.sleep, .wake] := by
  intro h
  cases i with
  | sleep => exact h₁ rfl
  | wake => exact h₂ rfl
  | drvSleep => exact h₃ rfl
  | drvWake => exact h₄ rfl
  | _ => rcases List.mem_pair.1 h with rfl | rfl <;> simp at hop

end

/-! ## What an instruction leaves alone, from what each thing it does leaves alone -/

/-- With no mishap armed, what everything in a body keeps is kept by the instruction, if it does not speak of what
acceptance and completion write. -/
theorem exec_quiet_keeps {i : Instr} {I : State → Prop} {s t : State} (q : QuietKeeps i I)
    (hI : ∀ u cs seq regs response, I u → I { u with cs := cs, seq := seq, regs := regs, response := response })
    (hs : s.ready) (h : exec i s = .next t) (hstart : I s) : I t := by
  obtain ⟨-, ⟨-, -, rfl⟩ | ⟨-, hend⟩⟩ := exec_next_keeps q.keeps h ⟨hs.2, hI s _ _ _ _ hstart⟩
  · exact hI s _ _ _ _ hstart
  · cases hend with
    | answered _ ht => exact hI _ _ _ _ _ ht.2
    | released _ ht => exact hI _ _ _ _ _ ht.2
    | abandoned ht => exact ht.elim

/-- A part of the device that the frames and the waits of an instruction leave alone, the instruction leaves alone. -/
theorem exec_keeps_device {α : Type} {i : Instr} {s t : State} (g : Device → α)
    (hsend : ∀ {f : Frame}, Sends i f → ∀ d wp, g (d.apply wp f) = g d)
    (hwait : i = .drvSleep ∨ i = .drvWake → ∀ d us, g (d.elapse us) = g d)
    (hs : s.ready) (h : exec i s = .next t) : g t.dev = g s.dev := by
  have q : QuietKeeps i (fun u => g u.dev = g s.dev) :=
    { regs := fun hu => hu
      txn := fun hf hu => (hsend hf _ _).trans hu
      delay := fun hi _ us hu => (hwait hi _ us).trans hu
      lock := fun _ _ hu => hu
      mark := fun _ _ _ _ hu => hu }
  exact exec_quiet_keeps q (fun _ _ _ _ _ hu => hu) hs h rfl

/-- Only a STORE_WRITE changes what is recorded of an unfinished slot (43_store.md R211; log 36). -/
theorem exec_keeps_unfinished {i : Instr} {s t : State} (hi : ∀ r, i ≠ .storeWrite r) (hs : s.ready)
    (h : exec i s = .next t) (x : Slot) : t.unfinished x = s.unfinished x := by
  have q : QuietKeeps i (fun u => u.unfinished x = s.unfinished x) :=
    { regs := fun hu => by cases x <;> exact hu
      txn := fun _ hu => by cases x <;> exact hu
      delay := fun _ _ _ hu => by cases x <;> exact hu
      lock := fun _ _ hu => by cases x <;> exact hu
      mark := fun ⟨r, hr⟩ => absurd hr (hi r) }
  exact exec_quiet_keeps q (fun _ _ _ _ _ hu => by cases x <;> exact hu) hs h rfl

/-- The state of a slot depends on the array and on what is unfinished there. -/
theorem slotState_of_array {s t : State} {x : Slot} (ha : t.dev.array = s.dev.array)
    (hu : t.unfinished x = s.unfinished x) : t.slotState x = s.slotState x := by
  have bytes : t.dev.bytesAt = s.dev.bytesAt := by
    unfold Device.bytesAt
    rw [ha]
  refine slotState_congr hu (by rw [bytes]) ?_
  unfold Device.payload
  rw [bytes]

/-- Settles O18: each part of the device is changed by some commands only, and only some instructions send these. -/
theorem deviceChangesByInstruction : Obligations.DeviceChangesByInstruction := by
  intro i s t hs h
  refine ⟨exec_keeps_device Device.params (fun _ d wp => d.apply_params wp _) (fun _ d us => d.elapse_params us) hs h,
    fun h₁ h₂ h₃ => ?_, fun h₁ h₂ h₃ h₄ h₅ h₆ h₇ h₈ h₉ h₁₀ => ?_, fun h₁ h₂ h₃ h₄ => ?_⟩
  · have array : t.dev.array = s.dev.array :=
      exec_keeps_device Device.array (fun hf => apply_array (sends_no_write h₁ h₂ h₃ hf))
        (fun _ d us => d.elapse_array us) hs h
    exact ⟨array, fun x => slotState_of_array array (exec_keeps_unfinished h₃ hs h x)⟩
  · exact exec_keeps_device Device.sr (fun hf => apply_sr (sends_no_status h₁ h₂ h₃ h₄ h₅ h₆ h₇ h₈ h₉ h₁₀ hf))
      (fun _ d us => d.elapse_sr us) hs h
  · have sleepState := exec_keeps_device (fun d => (d.asleep, d.waking))
      (fun hf => apply_sleepState (sends_no_sleep h₁ h₂ h₃ h₄ hf)) (fun hi => (hi.elim h₃ h₄).elim) hs h
    exact Prod.mk.inj sleepState

/-! ## Frames outside the array -/

/-- Settles O23: such a frame is not well formed. -/
theorem framesOutsideTheArrayStop : Obligations.FramesOutsideTheArrayStop := by
  intro s addr n data hs
  have stops : ∀ {f : Frame}, f.wellFormed = false → exec f.instr s = .fault .noSuchAddress := fun hf => by
    rw [exec_frame, serialOp_illFormed hs hf]
  exact ⟨fun h => stops (f := .read addr n) (decide_eq_false (Nat.not_le.2 h)),
    fun h => stops (f := .write addr data) (decide_eq_false (Nat.not_le.2 h))⟩

/-! ## A mishap that cuts a WRITE (20_memory.md R63, D21) -/

/-- What the trace shows of a frame cut after `n` bus actions (log 37). -/
def cutEvents (f : Frame) (n : Nat) : List BusEvent := if n = 0 then [] else [.cutTxn (f.bytes.take (n - 1))]

theorem cutTxn_trace (s : State) (f : Frame) (n : Nat) : (s.cutTxn f n).trace = s.trace ++ cutEvents f n := by
  unfold State.cutTxn cutEvents
  split_ifs <;> simp

/-- A cut frame other than WRITE leaves the array as it was. -/
theorem cut_array {f : Frame} (hf : frameKind f ≠ .write) (d : Device) (draw : Nat) : (d.cut draw f).array = d.array := by
  refine Device.ifPresent_keeps Device.array ?_
  cases f with
  | write => exact absurd rfl hf
  | wrsr | read | wrdi | rdsr | wren | wake | sleep => rfl

theorem cutTxn_array {f : Frame} (hf : frameKind f ≠ .write) (s : State) (n : Nat) :
    (s.cutTxn f n).dev.array = s.dev.array := by
  unfold State.cutTxn
  split_ifs
  · rfl
  · exact cut_array hf _ _

theorem oracleBytes_getD {n k : Nat} (h : k < n) (draw : Nat) :
    (oracleBytes draw n).getD k 0#8 = Config.oracleByte (draw + k) := by
  induction n generalizing draw k with
  | zero => omega
  | succ n ih =>
    cases k with
    | zero => rfl
    | succ k =>
      rw [oracleBytes, List.getD_cons_succ, ih (by omega), Nat.add_right_comm, Nat.add_assoc]

/-- A cut WRITE leaves free values in its range, where there is a device, and every other byte as it was. -/
theorem read_cut_write (d : Device) (draw : Nat) (addr : BusAddr) (data : List Byte) (a : Nat) :
    Memory.read (d.cut draw (.write addr data)).array a =
      if d.params.present = true ∧ addr.toNat ≤ a ∧ a < addr.toNat + data.length then
        Config.oracleByte (draw + (a - addr.toNat))
      else Memory.read d.array a := by
  cases hp : d.params.present with
  | false => simp [Device.cut_absent hp]
  | true =>
    simp only [Device.cut, Device.ifPresent_present hp, Memory.read_writeRange, oracleBytes_length, and_true, true_and]
    split_ifs with h
    · exact oracleBytes_getD (by omega) draw
    · rfl

/-- As `read_cut_write`, in the state: before Select nothing has been cut. -/
theorem read_cutTxn_write (s : State) (addr : BusAddr) (data : List Byte) (n a : Nat) :
    Memory.read (s.cutTxn (.write addr data) n).dev.array a =
      if s.dev.params.present = true ∧ 0 < n ∧ addr.toNat ≤ a ∧ a < addr.toNat + data.length then
        Config.oracleByte (s.draws + (a - addr.toNat))
      else Memory.read s.dev.array a := by
  unfold State.cutTxn
  split_ifs with hn h h
  · omega
  · rfl
  · rw [read_cut_write, if_pos ⟨h.1, h.2.2⟩]
  · rw [read_cut_write, if_neg fun h' => h ⟨h'.1, Nat.pos_of_ne_zero hn, h'.2⟩]

/-- Power loss and a bus fault come before any bus action of a transaction. -/
theorem firesIn_cut {m : Mishap} (hk : m.kind ≠ .hang) (len : Nat) :
    m.firesIn len = if m.after < len + 2 then some m.after else none := by
  unfold Mishap.firesIn
  cases h : m.kind with
  | powerLoss | busFault => rfl
  | hang => exact absurd h hk

theorem txn_cut {s : State} {m : Mishap} {f : Frame} (hm : s.mishap = some m) (hk : m.kind ≠ .hang)
    (h : m.after < f.bytes.length + 2) : txn f s = .stop .abandoned ((s.cutTxn f m.after).struck m.kind) := by
  simp only [txn, hm, firesIn_cut hk, if_pos h]

theorem txn_before_cut {s : State} {m : Mishap} {f : Frame} (hm : s.mishap = some m) (hk : m.kind ≠ .hang)
    (h : f.bytes.length + 2 ≤ m.after) :
    txn f s = .ok (capturedBytes f (s.dev.incoming s.draws f)) (s.afterTxn f) := by
  simp only [txn, hm, firesIn_cut hk, if_neg (Nat.not_lt.2 h)]

/-- The block after a cut: Idle, chip-select released, no response; `events` is what the trace shows of the operation. -/
structure CutShort (s t : State) (events : List BusEvent) : Prop where
  seq : t.seq = .idle
  cs : t.cs = false
  response : t.response = none
  trace : t.trace = s.trace ++ events

/-- Power loss and a bus fault end the operation in Idle and add nothing to the trace (log 16, log 17, log 19). -/
theorem struck_cutShort {kind : MishapKind} (hk : kind ≠ .hang) {s u : State} {events : List BusEvent}
    (h : u.trace = s.trace ++ events) : CutShort s (u.struck kind) events := by
  cases kind with
  | powerLoss | busFault => exact ⟨rfl, rfl, rfl, h⟩
  | hang => exact absurd rfl hk

/-- Neither changes the array beyond what the cut transaction has left (10_state.md R38). -/
theorem struck_array (s : State) (kind : MishapKind) : (s.struck kind).dev.array = s.dev.array := by
  cases kind with
  | powerLoss => exact Device.powerCycle_array _ _
  | busFault | hang => rfl

/-- A serial frame that a mishap cuts leaves the state the mishap made. -/
theorem exec_frame_cut {f : Frame} {s : State} {m : Mishap} (hs : s.seq = .idle) (hm : s.mishap = some m)
    (hk : m.kind ≠ .hang) (hw : f.wellFormed = true) (h : m.after < f.bytes.length + 2) :
    exec f.instr s = .next (((s.accept f.instr).cutTxn f m.after).struck m.kind) := by
  have hcut := txn_cut (s := s.accept f.instr) hm hk h
  have hbody : frameBody f (s.accept f.instr) =
      .stop .abandoned (((s.accept f.instr).cutTxn f m.after).struck m.kind) := by
    cases f <;> exact op_bind_stop hcut
  rw [exec_frame, serialOp_idle hs hw, hbody]
  rfl

/-- A write cut in its WREN, or before it. -/
theorem memWrite_cut_wren {addr : Word} {data : List Byte} {s : State} {m : Mishap}
    (hr : addr.toNat + data.length ≤ 0x80000) (hm : s.mishap = some m) (hk : m.kind ≠ .hang) (h : m.after < 3) :
    memWrite addr data s = .stop .abandoned ((s.cutTxn .wren m.after).struck m.kind) := by
  unfold memWrite
  rw [op_then_ok (checkRange_ok ((rangeOk_iff _ _).2 hr) s)]
  exact op_then_stop (op_then_stop (txn_cut (f := .wren) hm hk h))

/-- A write cut after its WREN, whose three bus actions the mishap has counted. -/
theorem memWrite_cut_write {addr : Word} {data : List Byte} {s : State} {m : Mishap}
    (hr : addr.toNat + data.length ≤ 0x80000) (hm : s.mishap = some m) (hk : m.kind ≠ .hang) (h : 3 ≤ m.after)
    (h' : m.after < 3 + (4 + data.length + 2)) :
    memWrite addr data s =
      .stop .abandoned (((s.afterTxn .wren).cutTxn (.write (busAddr addr) data) (m.after - 3)).struck m.kind) := by
  have wren : writeEnable s = .ok () (s.afterTxn .wren) := op_then_ok (txn_before_cut (f := .wren) hm hk h)
  have later : (s.afterTxn .wren).mishap = some (m.later 3) := by
    rw [State.afterTxn_mishap, hm]
    rfl
  have write := txn_cut (f := .write (busAddr addr) data) later hk
    (show m.after - 3 < _ by rw [write_bytes_length]; omega)
  unfold memWrite
  rw [op_then_ok (checkRange_ok ((rangeOk_iff _ _).2 hr) s), op_then_ok wren]
  exact op_then_stop write

theorem exec_drvWrite_cut {addr : Word} {data : List Byte} {s t : State} (hs : s.seq = .idle)
    (hl : data.length < 2 ^ 32) (h : memWrite addr data (s.accept (.drvWrite addr data)) = .stop .abandoned t) :
    exec (.drvWrite addr data) s = .next t := by
  rw [exec_host rfl]
  exact hostOp_abandoned hs (decide_eq_true hl) (op_then_stop h)

/-- A DRV_WRITE cut before the Select of its WRITE: the whole array is as it was. -/
theorem drvWrite_cut_early {addr : Word} {data : List Byte} {s : State} {m : Mishap} (hs : s.seq = .idle)
    (hm : s.mishap = some m) (hk : m.kind ≠ .hang) (hl : data.length < 2 ^ 32)
    (hr : addr.toNat + data.length ≤ 0x80000) (h : m.after < 3) :
    ∃ t, exec (.drvWrite addr data) s = .next t ∧ CutShort s t (cutEvents .wren m.after) ∧ t.dev.array = s.dev.array := by
  refine ⟨_, exec_drvWrite_cut hs hl (memWrite_cut_wren hr hm hk h), struck_cutShort hk (cutTxn_trace _ _ _), ?_⟩
  rw [struck_array, cutTxn_array (by decide)]
  rfl

/-- A DRV_WRITE whose WREN has completed, cut in its WRITE or before it: the array is as that of the cut WRITE. -/
theorem drvWrite_cut_late {addr : Word} {data : List Byte} {s : State} {m : Mishap} (hs : s.seq = .idle)
    (hm : s.mishap = some m) (hk : m.kind ≠ .hang) (hl : data.length < 2 ^ 32)
    (hr : addr.toNat + data.length ≤ 0x80000) (h : 3 ≤ m.after) (h' : m.after < 3 + (4 + data.length + 2)) :
    ∃ t, exec (.drvWrite addr data) s = .next t ∧
      CutShort s t (.txn [0x06#8] [] :: cutEvents (.write (busAddr addr) data) (m.after - 3)) ∧
      ∀ a, Memory.read t.dev.array a =
        if s.dev.params.present = true ∧ 0 < m.after - 3 ∧ addr.toNat ≤ a ∧ a < addr.toNat + data.length then
          Config.oracleByte (s.draws + 1 + (a - addr.toNat))
        else Memory.read s.dev.array a := by
  refine ⟨_, exec_drvWrite_cut hs hl (memWrite_cut_write hr hm hk h h'), struck_cutShort hk ?_, fun a => ?_⟩
  · rw [cutTxn_trace, State.afterTxn_trace, List.append_assoc]
    rfl
  · rw [struck_array, read_cutTxn_write, State.afterTxn_dev, Device.apply_params, apply_array (by decide),
      busAddr_toNat (by omega)]
    rfl

/-- Settles O56: the cut falls in WREN or before it, or in WRITE or right before it; the frame alone is the second. -/
theorem cutWriteLeavesItsRangeOpen : Obligations.CutWriteLeavesItsRangeOpen := by
  intro s kind n hs hm hk
  refine ⟨fun addr data hl hr hn => ?_, fun addr data hr hn => ?_⟩
  · rcases Nat.lt_or_ge n 3 with h | h
    · obtain ⟨t, ht, hcut, harray⟩ := drvWrite_cut_early hs hm hk hl hr h
      refine ⟨t, ht, hcut.seq, hcut.cs, hcut.response, ?_, fun a => ?_⟩
      · rw [hcut.trace, cutEvents, if_pos h]
        rfl
      · rw [harray, if_neg (by omega)]
    · obtain ⟨t, ht, hcut, harray⟩ := drvWrite_cut_late hs hm hk hl hr h hn
      refine ⟨t, ht, hcut.seq, hcut.cs, hcut.response, ?_, fun a => ?_⟩
      · rw [hcut.trace]
        rcases Nat.eq_or_lt_of_le h with rfl | h₃
        · rfl
        · rw [cutEvents, if_neg (Nat.sub_ne_zero_of_lt h₃), if_neg (show n ≠ 0 by omega), if_neg (Nat.not_lt.2 h),
            if_neg (Nat.ne_of_gt h₃)]
          rfl
      · simp only [harray, Nat.sub_pos_iff_lt]
  · have len : n < (Frame.write addr data).bytes.length + 2 := by rwa [write_bytes_length]
    have hcut := struck_cutShort (s := s) hk (cutTxn_trace (s.accept (.write addr data)) (.write addr data) n)
    refine ⟨_, exec_frame_cut (f := .write addr data) hs hm hk (decide_eq_true hr) len,
      hcut.seq, hcut.cs, hcut.response, hcut.trace, fun a => ?_⟩
    rw [struck_array, read_cutTxn_write]
    rfl

end Sys2Proof.Machine

/-! # Proofs of the encoding family (30_encoding.md)

## Frames and their bytes -/

namespace Sys2Proof.Machine

theorem zeros_length (n : Nat) : (zeros n).length = n := List.length_replicate

theorem zeros_all_zero (n : Nat) : (zeros n).all (· == 0#8) = true := by simp [zeros]

/-- A list of zero bytes is what READ and RDSR send for the bytes they capture (30_encoding.md R83, decision D8). -/
theorem zeros_of_all_zero {l : List Byte} (h : l.all (· == 0#8) = true) : zeros l.length = l :=
  (List.eq_replicate_of_mem fun b hb => beq_iff_eq.1 (List.all_eq_true.1 h b hb)).symm

/-- A frame begins with the opcode of its command (30_encoding.md R82). -/
theorem bytes_eq_cons (f : Frame) : f.bytes = (frameKind f).code :: f.bytes.tail := by
  cases f <;> rfl

theorem frameOfParts_tail (f : Frame) : frameOfParts (frameKind f) f.bytes.tail = some f := by
  cases f with
  | write addr data => exact congrArg (fun a => some (Frame.write a data)) (fromBe3_be3 addr)
  | read addr n =>
    show (if (zeros n).all (· == 0#8) then some (Frame.read (fromBe3 _ _ _) (zeros n).length) else none) = _
    rw [if_pos (zeros_all_zero n), zeros_length, fromBe3_be3]
  | wrsr | wrdi | rdsr | wren | wake | sleep => rfl

/-- The bytes after an opcode that spell a frame are that frame's: one format per opcode (30_encoding.md R83). -/
theorem frameOfParts_some {op : FrameOp} {rest : List Byte} {f : Frame} (h : frameOfParts op rest = some f) :
    f.bytes = op.code :: rest := by
  unfold frameOfParts at h
  split at h
  case h_2 hi mid lo data =>
    cases h
    show FrameOp.write.code :: (be3 (fromBe3 hi mid lo) ++ data) = _
    rw [be3_fromBe3]
    rfl
  case h_3 hi mid lo data =>
    split_ifs at h with hz
    cases h
    show FrameOp.read.code :: (be3 (fromBe3 hi mid lo) ++ zeros data.length) = _
    rw [be3_fromBe3, zeros_of_all_zero hz]
    rfl
  case h_5 z =>
    split_ifs at h with hz
    cases h
    rw [beq_iff_eq.1 hz]
    rfl
  case h_9 => cases h
  all_goals
    cases h
    rfl

/-- The decoder of bus traces reads a frame back from its bytes, if the block can send it (30_encoding.md R84, R87). -/
theorem decodeFrame_bytes (f : Frame) :
    decodeFrame f.bytes = if f.wellFormed then .ok f else .error (.notSentByBlock f.bytes) := by
  have hparts : (frameOpOf (frameKind f).code).bind (fun op => frameOfParts op f.bytes.tail) = some f := by
    rw [frameOpOf_code, Option.bind_some, frameOfParts_tail]
  rw [bytes_eq_cons f]
  simp only [decodeFrame, hparts]

/-- Only a frame's own bytes decode to it. -/
theorem bytes_of_decodeFrame {l : List Byte} {f : Frame} (h : decodeFrame l = .ok f) : f.bytes = l := by
  unfold decodeFrame at h
  split at h
  · cases h
  next b rest =>
    split at h
    next g hg =>
      obtain ⟨op, hop, hparts⟩ := Option.bind_eq_some_iff.1 hg
      split_ifs at h
      cases h
      rw [frameOfParts_some hparts, frameOpOf_some hop]
    · cases h

theorem encode_frame (f : Frame) : encode f.instr = .frame f.bytes := by
  cases f <;> rfl

/-! ## Host requests and their operands -/

/-- Why the request of an instruction that is not well formed does not decode (30_encoding.md R93, R95). -/
def operandError : Instr → DecodeError
  | .drvSetBp cfg => .reservedCfg cfg
  | i => .wrongShape (Laws.OpcodeByte.tableByte i)

theorem decode_requestOf (op : HostOp) (o : Operands) : decode (requestOf op o) = decodeOperands op o :=
  decodeRequest_code op o

/-- The request of a host operation decodes to it if its operands pass their checks, else not (R93, R95). -/
theorem decode_encode_host {i : Instr} (h : isHostOp i = true) :
    decode (encode i) = if i.wellFormed then .ok i else .error (operandError i) := by
  cases i with
  | wrsr | write | read | wrdi | rdsr | wren | wake | sleep => cases h
  | _ => exact decode_requestOf _ _

/-- What operands decode to is the instruction whose request carries them, and they are of the operation's kind. -/
theorem decodeOperands_inv {op : HostOp} {o : Operands} {i : Instr} (h : decodeOperands op o = .ok i) :
    encode i = requestOf op o ∧ op.takes o = true := by
  cases op
  case drvWrite =>
    cases o with
    | addrData addr data => obtain ⟨-, rfl⟩ := checked_ok h; exact ⟨rfl, rfl⟩
    | _ => cases h
  case drvSetBp =>
    cases o with
    | byte cfg => obtain ⟨-, rfl⟩ := checked_ok h; exact ⟨rfl, rfl⟩
    | _ => cases h
  case crc32 | recDecode | hdrValidate =>
    cases o with
    | bytes l => obtain ⟨-, rfl⟩ := checked_ok h; exact ⟨rfl, rfl⟩
    | _ => cases h
  all_goals
    cases o <;> cases h
    exact ⟨rfl, rfl⟩

theorem encode_of_decodeRequest {r : Request} {i : Instr} (h : decodeRequest r = .ok i) : encode i = .request r := by
  unfold decodeRequest at h
  split at h
  · cases h
  next op hop => rw [(decodeOperands_inv h).1, requestOf, hostOpOf_some hop]

/-! ## Both levels -/

/-- Settles O2: a frame is read back from its bytes by `decodeFrame_bytes`, a request by `decode_encode_host`. -/
theorem encodeThenDecodeIsIdentity : Obligations.EncodeThenDecodeIsIdentity := by
  intro i hw
  rcases frame_or_host i with ⟨f, rfl⟩ | hi
  · rw [frame_wellFormed] at hw
    rw [encode_frame, decode, decodeFrame_bytes, if_pos hw]
    rfl
  · rw [decode_encode_host hi, if_pos hw]

/-- Settles O3: at each level the decoder answers only on the encoding of what it answers. -/
theorem decodedCodesAreEncodings : Obligations.DecodedCodesAreEncodings := by
  intro c i h
  refine ⟨?_, decode_wellFormed h⟩
  cases c with
  | request r => exact encode_of_decodeRequest h
  | frame l =>
    cases hf : decodeFrame l with
    | error e => simp [decode, hf, Except.map] at h
    | ok f =>
      have hi : f.instr = i := by simpa [decode, hf, Except.map] using h
      rw [← hi, encode_frame, bytes_of_decodeFrame hf]

/-- Settles O1: each of the eight codes is the encoding of the instruction it stands for. -/
theorem specWordsDecode : Obligations.SpecWordsDecode :=
  ⟨encodeThenDecodeIsIdentity (.wrsr 0x8A#8) rfl,
    encodeThenDecodeIsIdentity (.write 0x100#24 [0xAA#8, 0x55#8]) rfl,
    encodeThenDecodeIsIdentity (.read 0x118#24 2) rfl,
    encodeThenDecodeIsIdentity .wake rfl,
    encodeThenDecodeIsIdentity .sleep rfl,
    encodeThenDecodeIsIdentity (.drvRead 0x18#32 4#32) rfl,
    encodeThenDecodeIsIdentity (.drvSetBp 0x06#8) rfl,
    encodeThenDecodeIsIdentity .storeRead rfl⟩

theorem bytes_head (f : Frame) : f.bytes.head? = some (frameKind f).code := by
  rw [bytes_eq_cons]
  rfl

/-- Settles O4: the first byte is the code of the frame's command. -/
theorem framesBeginWithTheEightOpcodes : Obligations.FramesBeginWithTheEightOpcodes :=
  ⟨fun _ => bytes_head _, fun _ _ => bytes_head _, fun _ _ => bytes_head _, bytes_head .wrdi, bytes_head .rdsr,
    bytes_head .wren, bytes_head .wake, bytes_head .sleep⟩

/-! ## The step on a code: run what decodes, answer ILLEGAL_OP to a request that does not -/

theorem step_code {s : State} {c : Code} {rest : List Input} (hi : s.inputs = .code c :: rest) :
    step s = runCode c { s with inputs := rest } := by
  simp only [step, takeInput, hi, runInput]

/-- Settles O7: the step is `runCode`, which decodes and runs. -/
theorem stepRunsTheDecodedInstruction : Obligations.StepRunsTheDecodedInstruction := by
  intro s c i rest hi hd
  rw [step_code hi, runCode, hd]

/-- In Idle a request that does not decode is answered ILLEGAL_OP, and nothing else changes (30_encoding.md R92, R93,
R95). -/
theorem step_rejected_request {s : State} {r : Request} {rest : List Input} {e : DecodeError} (hs : s.seq = .idle)
    (hd : decode (.request r) = .error e) :
    step { s with inputs := .code (.request r) :: rest } =
      .next { s with inputs := rest, response := some { result := 0xFF#8, data := .empty } } := by
  rw [step_code rfl, runCode, hd]
  simp only [rejected, hs]
  rfl

/-- The sixteen operation codes (30_encoding.md R91). -/
theorem hostOp_code_mem (op : HostOp) :
    op.code ∈ [0x01#8, 0x02#8, 0x03#8, 0x04#8, 0x05#8, 0x06#8, 0x07#8, 0x08#8, 0x09#8, 0x10#8, 0x11#8, 0x12#8, 0x13#8,
      0x14#8, 0x20#8, 0x21#8] := by
  cases op <;> decide

/-- Settles O5: a byte outside the sixteen codes names no host operation. -/
theorem unassignedOpCodesAnswerIllegalOp : Obligations.UnassignedOpCodesAnswerIllegalOp := by
  intro s r rest hs hop
  have hnone : hostOpOf r.op = none :=
    Option.eq_none_iff_forall_ne_some.2 fun op h => hop (hostOpOf_some h ▸ hostOp_code_mem op)
  exact step_rejected_request hs (by simp only [decode, decodeRequest, hnone]; rfl)

/-- Operands of another kind than the operation's own do not decode, whatever they hold. -/
theorem decodeOperands_of_not_takes {op : HostOp} {o : Operands} (h : op.takes o = false) :
    ∃ e, decodeOperands op o = .error e := by
  cases hd : decodeOperands op o with
  | error e => exact ⟨e, rfl⟩
  | ok i => exact absurd (decodeOperands_inv hd).2 (by simp [h])

/-- A host operation whose operands fail their checks is answered ILLEGAL_OP, as a request and as an instruction. -/
theorem illFormed_answers {i : Instr} {r : Request} {s : State} (rest : List Input) (hs : s.seq = .idle)
    (hi : isHostOp i = true) (hr : encode i = .request r) (hw : i.wellFormed = false) :
    step { s with inputs := .code (.request r) :: rest } =
        .next { s with inputs := rest, response := some { result := 0xFF#8, data := .empty } } ∧
      exec i s = .next { s with response := some { result := 0xFF#8, data := .empty } } := by
  have hd : decode (.request r) = .error (operandError i) := by
    rw [← hr, decode_encode_host hi, hw]
    rfl
  refine ⟨step_rejected_request hs hd, ?_⟩
  rw [exec_illFormed hs hw, hi]
  rfl

/-- Settles O6: operands of the wrong kind by `decodeOperands_of_not_takes`, the others by `illFormed_answers`. -/
theorem wrongOperandsAnswerIllegalOp : Obligations.WrongOperandsAnswerIllegalOp := by
  intro s rest hs
  refine ⟨fun op o hk => ?_, fun cfg hc => ?_, fun b hb => ?_, fun h hh => ?_, fun addr l hl => ?_⟩
  · obtain ⟨e, he⟩ := decodeOperands_of_not_takes hk
    exact step_rejected_request hs ((decode_requestOf op o).trans he)
  · exact illFormed_answers (i := .drvSetBp cfg) rest hs rfl rfl (beq_eq_false_iff_ne.2 hc)
  · exact illFormed_answers (i := .recDecode b) rest hs rfl rfl (beq_eq_false_iff_ne.2 hb)
  · exact illFormed_answers (i := .hdrValidate h) rest hs rfl rfl (beq_eq_false_iff_ne.2 hh)
  · have hlong : lengthFits l = false := decide_eq_false (Nat.not_lt.2 hl)
    obtain ⟨hwrite, hwrite'⟩ := illFormed_answers (i := .drvWrite addr l) rest hs rfl rfl hlong
    obtain ⟨hcrc, hcrc'⟩ := illFormed_answers (i := .crc32 l) rest hs rfl rfl hlong
    exact ⟨hwrite, hwrite', hcrc, hcrc'⟩

/-! ## What each frame does to the device -/

/-- A sleeping device ignores every command but WAKE, an absent one that too (10_state.md R39; D20(i); log 35). -/
theorem apply_silent {d : Device} (h : d.answers = false) (wp : Bool) {f : Frame} (hf : frameKind f ≠ .wake) :
    d.apply wp f = d := by
  cases hp : d.params.present with
  | false => exact Device.apply_absent hp wp f
  | true =>
    have ha : d.asleep = true := by simpa [Device.answers, hp] using h
    cases f with
    | wake => exact absurd rfl hf
    | wrsr | write | read | wrdi | rdsr | wren | sleep => simp [Device.apply, ha]

/-- A frame other than WAKE, from what an awake device makes of it. -/
theorem apply_eq_of_awake {d e : Device} {wp : Bool} {f : Frame} (hf : frameKind f ≠ .wake)
    (hsilent : d.answers = false → e = d)
    (hawake : d.params.present = true → d.asleep = false → d.apply wp f = e) : d.apply wp f = e := by
  cases h : d.answers with
  | false => rw [hsilent h, apply_silent h wp hf]
  | true =>
    obtain ⟨hp, ha⟩ := Device.answers_iff.1 h
    exact hawake hp ha

theorem apply_wren (d : Device) (wp : Bool) :
    d.apply wp .wren = { d with sr := if d.answers then d.sr ||| 0x02#8 else d.sr } :=
  apply_eq_of_awake (by decide) (fun h => by simp [h]) fun hp ha => by
    simp [Device.apply, Device.answers, Device.ifPresent, hp, ha, setWel_true]

theorem apply_wrdi (d : Device) (wp : Bool) :
    d.apply wp .wrdi = { d with sr := if d.answers then d.sr &&& 0xFD#8 else d.sr } :=
  apply_eq_of_awake (by decide) (fun h => by simp [h]) fun hp ha => by
    simp [Device.apply, Device.answers, Device.ifPresent, hp, ha, setWel_false]

theorem apply_sleep (d : Device) (wp : Bool) :
    d.apply wp .sleep = if d.answers then { d with asleep := true, waking := false } else d :=
  apply_eq_of_awake (by decide) (fun h => by simp [h]) fun hp ha => by
    simp [Device.apply, Device.answers, Device.ifPresent, hp, ha]

/-- WAKE starts waking a sleeping device, and an awake one it leaves as it is (40_driver.md R121; log 8). -/
theorem apply_wake (d : Device) (wp : Bool) :
    d.apply wp .wake = if d.params.present then { d with waking := d.asleep || d.waking } else d := by
  cases hp : d.params.present with
  | false => exact Device.apply_absent hp wp .wake
  | true =>
    rw [if_pos rfl]
    cases ha : d.asleep with
    | true => simp [Device.apply, Device.ifPresent_present hp, ha]
    | false =>
      have awake : d.apply wp .wake = d := by simp [Device.apply, ha]
      rw [awake, Bool.false_or, ← ha]

theorem apply_wrsr (d : Device) (wp : Bool) (v : Byte) :
    d.apply wp (.wrsr v) = { d with sr := if d.answers then d.welAfterWrite (d.writeStatus wp v) else d.sr } :=
  apply_eq_of_awake (by simp) (fun h => by simp [h]) fun hp ha => by
    simp [Device.apply, Device.answers, Device.ifPresent, hp, ha]

theorem apply_write (d : Device) (wp : Bool) (addr : BusAddr) (data : List Byte) :
    d.apply wp (.write addr data) =
      { d with
        array := if d.answers then d.writeArray addr.toNat data else d.array
        sr := if d.answers then d.welAfterWrite d.sr else d.sr } :=
  apply_eq_of_awake (by simp) (fun h => by simp [h]) fun hp ha => by
    simp [Device.apply, Device.answers, Device.ifPresent, hp, ha]

theorem set_of_wel {x : Byte} (h : wel x = true) : x ||| 0x02#8 = x := by revert x; decide

theorem clear_of_not_wel {x : Byte} (h : wel x = false) : x &&& 0xFD#8 = x := by revert x; decide

/-- Without WEL a WRSR changes no bit, and WEL is clear already (10_state.md R33). -/
theorem wrsr_without_wel {d : Device} (h : wel d.sr = false) (wp : Bool) (v : Byte) :
    d.welAfterWrite (d.writeStatus wp v) = d.sr := by
  have hkept : d.writeStatus wp v = d.sr := by simp [Device.writeStatus, h]
  unfold Device.welAfterWrite
  rw [hkept, setWel_false, clear_of_not_wel h, ite_self]

/-- With WEL set a WRSR alone does what one after WREN does. -/
theorem wrsr_with_wel {d : Device} (ha : d.answers = true) (h : wel d.sr = true) (wp : Bool) (v : Byte) :
    d.welAfterWrite (d.writeStatus wp v) = d.srAfterWrsr wp v := by
  cases hl : srwd d.sr && (wp && d.params.wpWired) <;>
    simp [Device.welAfterWrite, Device.writeStatus, Device.srAfterWrsr, Device.wpSeen, ha, h, hl, set_of_wel h,
      setWel_false]

/-- What the array reads as after a WRITE with WEL as it stands (D20(e)). -/
theorem read_writeArray (d : Device) (base : Nat) (data : List Byte) (a : Nat) :
    Memory.read (if d.answers then d.writeArray base data else d.array) a =
      if d.landsAt base data.length a = true ∧ wel d.sr = true then data.getD (a - base) 0#8
      else Memory.read d.array a := by
  unfold Device.writeArray
  cases h : wel d.sr with
  | true => simpa using read_written d base data a
  | false => simp

/-! ## A frame run as an instruction -/

/-- The block's side of a frame that captures nothing: one bracket, no response (30_encoding.md R81, R83; log 12). -/
theorem exec_sendOnly {f : Frame} {s : State} (hs : s.ready) (hw : f.wellFormed = true)
    (hf : frameKind f ∉ [.read, .rdsr]) :
    exec f.instr s =
      .next { s with
        cs := false, regs := WorkRegs.empty, draws := s.draws + f.bytes.length
        trace := s.trace ++ [.txn f.bytes []], dev := s.dev.apply s.wp f } := by
  obtain ⟨hseq, hm⟩ := hs
  have hbody : frameBody f = sendOnly f := by
    cases f with
    | read | rdsr => simp at hf
    | wrsr | write | wrdi | wren | wake | sleep => rfl
  have hc : ∀ rx, capturedBytes f rx = [] := by
    cases f with
    | read | rdsr => simp at hf
    | wrsr | write | wrdi | wren | wake | sleep => exact fun _ => rfl
  have hsent : sendOnly f (s.accept f.instr) = .ok () ((s.accept f.instr).afterTxn f) :=
    op_then_ok (txn_ok (s := s.accept f.instr) hm f)
  rw [exec_frame, serialOp_idle hseq hw, hbody, hsent, afterTxn_sendOnly (s := s.accept f.instr) hm hc]
  simp only [settle, State.release, State.accept, hseq]

/-- The block's side of READ and RDSR: what they capture goes to `RX` (30_encoding.md R83; 10_state.md R26). -/
theorem exec_sendAndCapture {f : Frame} {s : State} (hs : s.ready) (hw : f.wellFormed = true)
    (hf : frameKind f ∈ [.read, .rdsr]) {rx : List Byte} (hrx : capturedBytes f (s.dev.incoming s.draws f) = rx) :
    exec f.instr s =
      .next { s with
        cs := false, regs := { WorkRegs.empty with rx := some rx }, draws := s.draws + f.bytes.length
        trace := s.trace ++ [.txn f.bytes rx] } := by
  obtain ⟨hseq, hm⟩ := hs
  have hbody : frameBody f = sendAndCapture f := by
    cases f with
    | read | rdsr => rfl
    | wrsr | write | wrdi | wren | wake | sleep => simp at hf
  have hdev : s.dev.apply s.wp f = s.dev := by
    cases f with
    | read => exact Device.apply_read ..
    | rdsr => exact Device.apply_rdsr ..
    | wrsr | write | wrdi | wren | wake | sleep => simp at hf
  have hsent : sendAndCapture f (s.accept f.instr) =
      .ok () { (s.accept f.instr).afterTxn f with regs := { WorkRegs.empty with rx := some rx } } := by
    subst hrx
    exact op_bind_ok (txn_ok (s := s.accept f.instr) hm f)
  rw [exec_frame, serialOp_idle hseq hw, hbody, hsent]
  simp only [settle, State.release, State.afterTxn, State.accept, hseq, hm, hrx, hdev, Option.map_none]

/-- Settles O20: the four commands by `exec_sendOnly`, their effect on the device by the lemma of each. -/
theorem commandOnlyFramesComplete : Obligations.CommandOnlyFramesComplete := by
  intro s hs
  rw [← apply_wren s.dev s.wp, ← apply_wrdi s.dev s.wp, ← apply_sleep s.dev s.wp, ← apply_wake s.dev s.wp]
  exact ⟨exec_sendOnly (f := .wren) hs rfl (by decide), exec_sendOnly (f := .wrdi) hs rfl (by decide),
    exec_sendOnly (f := .sleep) hs rfl (by decide), exec_sendOnly (f := .wake) hs rfl (by decide)⟩

/-- Settles O21: what RDSR captures is `captured_rdsr_eq`, and SR after a WRSR depends on WEL. -/
theorem statusFramesComplete : Obligations.StatusFramesComplete := by
  intro s v hs
  refine ⟨exec_sendAndCapture (f := .rdsr) hs rfl (by decide) (captured_rdsr_eq _ _),
    if s.dev.answers then s.dev.welAfterWrite (s.dev.writeStatus s.wp v) else s.dev.sr,
    ?_, fun ha => ?_, fun ha hwel => ?_, fun ha hwel => ?_⟩
  · rw [← apply_wrsr]
    exact exec_sendOnly (f := .wrsr v) hs rfl (by simp)
  · simp [ha]
  · rw [if_pos ha, wrsr_without_wel hwel]
  · rw [if_pos ha, wrsr_with_wel ha hwel]

/-- Settles O22: what READ captures is `captured_read_eq`, and what a WRITE stores is `read_writeArray`. -/
theorem dataFramesComplete : Obligations.DataFramesComplete := by
  intro s addr n data hs
  refine ⟨fun hr => ?_, fun hr => ?_⟩
  · rw [← read_bytes_length addr n]
    exact exec_sendAndCapture (f := .read addr n) hs (decide_eq_true hr) (by simp) (captured_read_eq ..)
  · refine ⟨if s.dev.answers then s.dev.writeArray addr.toNat data else s.dev.array,
      if s.dev.answers then s.dev.welAfterWrite s.dev.sr else s.dev.sr, ?_, ?_, fun a => read_writeArray ..⟩
    · rw [← apply_write s.dev s.wp, ← write_bytes_length addr data]
      exact exec_sendOnly (f := .write addr data) hs (decide_eq_true hr) (by simp)
    · simp only [Device.welAfterWrite, setWel_false, ite_and]

end Sys2Proof.Machine

/-! # Proofs of the driver family (40_driver.md)

## How a host operation answers, from how its body ends -/

namespace Sys2Proof.Machine

/-- From a body that ends normally: OK with its data, chip-select released and the sequencer where it was
(10_state.md R22, R28, R29). -/
theorem exec_host_ok {i : Instr} {s t : State} {d : RespData} (hs : s.seq = .idle) (hi : isHostOp i = true)
    (hw : i.wellFormed = true) (hb : hostBody i (s.accept i) = .ok d t) :
    exec i s = .next { t with cs := false, seq := s.seq, response := some { result := 0x00#8, data := d } } := by
  rw [exec_host hi, hostOp_ok hs hw hb, hs]
  rfl

/-- From a body that raises an error: its code, and nothing else but the end of the operation (60_exceptions.md R237). -/
theorem exec_host_raised {i : Instr} {s t : State} {c : ResultCode} (hs : s.seq = .idle) (hi : isHostOp i = true)
    (hw : i.wellFormed = true) (hb : hostBody i (s.accept i) = .stop (.raised c) t) :
    exec i s = .next { t with cs := false, seq := s.seq, response := some { result := c.code, data := .empty } } := by
  rw [exec_host hi, hostOp_raised hs hw hb, hs]
  rfl

/-! ## The bodies of the driver, run with no mishap armed -/

/-- A transaction whose frame captures nothing. -/
theorem txn_sendOnly {s : State} (hm : s.mishap = none) {f : Frame} (hc : ∀ rx, capturedBytes f rx = []) :
    txn f s =
      .ok []
        { s with
          cs := false, seq := s.seq.advance (f.bytes.length + 2), draws := s.draws + f.bytes.length
          dev := s.dev.apply s.wp f, trace := s.trace ++ [.txn f.bytes []] } := by
  rw [txn_ok hm, hc, afterTxn_sendOnly hm hc]

/-- A command and then a wait, as DRV_SLEEP and DRV_WAKE send them (40_driver.md R120, R121). -/
theorem sendThenDelay_explicit {s : State} (hm : s.mishap = none) {f : Frame} (hc : ∀ rx, capturedBytes f rx = [])
    (us : Nat) (d : RespData) :
    ((txn f).andThen <| (delay us).andThen (Op.pure d)) s =
      .ok d
        { s with
          cs := false, seq := (s.seq.advance (f.bytes.length + 2)).advance 1, draws := s.draws + f.bytes.length
          dev := (s.dev.apply s.wp f).elapse us, trace := s.trace ++ [.txn f.bytes [], .delay us] } := by
  rw [op_then_ok (txn_sendOnly hm hc), op_then_ok (delay_ok (by exact hm) us), op_pure]
  simp only [List.append_assoc, List.cons_append, List.nil_append]

/-- The line change of a locking DRV_SET_BP, and none of one that does not lock (40_driver.md R124). -/
theorem lockLine_explicit {s : State} (hm : s.mishap = none) (lock : Bool) :
    (if lock then driveWp true else Op.pure ()) s =
      .ok ()
        { s with
          wp := s.wp || lock, seq := if lock then s.seq.advance 1 else s.seq
          trace := s.trace ++ (if lock then [.setWp true] else []) } := by
  cases lock with
  | false => simp [op_pure]
  | true => simp [driveWp_ok hm]

/-- DRV_SET_BP's body: RDSR, the line change, then WREN and WRSR of the new status (40_driver.md R123 to R126). -/
theorem setBlockProtect_explicit {s : State} (hm : s.mishap = none) (cfg : Byte) {sr v : Byte}
    (hsr : s.dev.seenStatus s.draws = sr) (hv : newStatus sr (cfgLevel cfg) (cfgHwLock cfg) = v) :
    ∃ q : Seq, setBlockProtect cfg s =
      .ok ()
        { s with
          cs := false, seq := q, wp := s.wp || cfgHwLock cfg
          regs := { s.regs with rx := some [sr], srTmp := some v }
          draws := s.draws + 2 + 1 + 2
          trace := s.trace ++ [.txn [0x05#8, 0x00#8] [sr]] ++ (if cfgHwLock cfg then [.setWp true] else []) ++
            [.txn [0x06#8] [], .txn [0x01#8, v] []]
          dev := { s.dev with sr := s.dev.srAfterWrsr (s.wp || cfgHwLock cfg) v } } := by
  subst hsr hv
  unfold setBlockProtect
  rw [op_bind_ok (readStatus_explicit hm), op_then_ok (setSrTmp_run _ _), op_then_ok (lockLine_explicit (by exact hm) _),
    op_bind_ok (getSrTmp_some rfl), writeStatus_explicit (by exact hm)]
  exact ⟨_, rfl⟩

/-! ## The value DRV_SET_BP writes, and the device after a power command -/

theorem cfgLevel_bits (cfg : Byte) : (cfgLevel cfg).setWidth 8 = cfg &&& 0x03#8 := by revert cfg; decide

/-- The new status in the bits of `cfg` (40_driver.md R123). -/
theorem newStatus_of_cfg (sr cfg : Byte) :
    newStatus sr (cfgLevel cfg) (cfgHwLock cfg) =
      (sr &&& 0xF3#8) ||| ((cfg &&& 0x03#8) <<< 2) ||| (if cfg.getLsbD 2 then 0x80#8 else 0x00#8) := by
  unfold newStatus cfgHwLock
  rw [cfgLevel_bits]
  cases cfg.getLsbD 2 with
  | false => exact BitVec.or_zero.symm
  | true => rfl

/-- A wait shorter than the one after WAKE wakes nothing (log 34). -/
theorem elapse_short {us : Nat} (h : us < Config.tWakeUs) (d : Device) : d.elapse us = d := by
  simp [Device.elapse, Nat.not_le.2 h]

/-- The wait after WAKE wakes a device that has taken WAKE (40_driver.md R121). -/
theorem elapse_tWake {d : Device} (hp : d.params.present = true) :
    d.elapse Config.tWakeUs = if d.waking then { d with asleep := false, waking := false } else d := by
  simp [Device.elapse, Device.ifPresent_present hp]

/-- SLEEP and its wait: a device that answers sleeps, and any other is as it was (40_driver.md R120). -/
theorem apply_sleep_elapse (d : Device) (wp : Bool) :
    (d.apply wp .sleep).elapse Config.tSleepUs =
      if d.answers then { d with asleep := true, waking := false } else d := by
  rw [elapse_short (by decide), apply_sleep]

/-- WAKE and its wait: a device that is there is awake, whatever it was (40_driver.md R121). -/
theorem apply_wake_elapse (d : Device) (wp : Bool) :
    (d.apply wp .wake).elapse Config.tWakeUs =
      if d.params.present then { d with asleep := false, waking := false } else d := by
  rw [apply_wake]
  cases hp : d.params.present with
  | false => exact Device.elapse_absent hp _
  | true =>
    rw [if_pos rfl, if_pos rfl, elapse_tWake (by exact hp)]
    cases h : d.asleep || d.waking with
    | true => rfl
    | false =>
      obtain ⟨ha, -⟩ := Bool.or_eq_false_iff.1 h
      simp [ha]

/-! ## The operations -/

/-- Settles O24: the check raises RANGE before anything is sent. -/
theorem outOfRangeAccessesTouchNoBus : Obligations.OutOfRangeAccessesTouchNoBus := by
  refine ⟨rangeOk_iff, fun s addr n data hs => ⟨fun hr => ?_, fun hl hr => ?_⟩⟩
  · exact exec_host_raised (i := .drvRead addr n) hs rfl rfl
      (op_bind_stop (memRead_raised ((rangeOk_false_iff _ _).2 hr)))
  · exact exec_host_raised (i := .drvWrite addr data) hs rfl (decide_eq_true hl)
      (op_then_stop (memWrite_raised ((rangeOk_false_iff _ _).2 hr)))

/-- Settles O25: the body is `memRead_explicit`. -/
theorem drvReadAnswersTheBytes : Obligations.DrvReadAnswersTheBytes := by
  intro s addr n ⟨hseq, hm⟩ hr
  exact exec_host_ok (i := .drvRead addr n) hseq rfl rfl
    (op_bind_ok (memRead_explicit (s := s.accept (.drvRead addr n)) hm hr))

/-- Settles O26: the body is `memWrite_explicit`, and what the array then reads as is `read_written`. -/
theorem drvWriteStoresTheBytes : Obligations.DrvWriteStoresTheBytes := by
  intro s addr data ⟨hseq, hm⟩ hl hr
  refine ⟨_, ?_, read_written s.dev addr.toNat data⟩
  rw [← Nat.add_assoc]
  exact exec_host_ok (i := .drvWrite addr data) hseq rfl (decide_eq_true hl)
    (op_then_ok (memWrite_explicit (s := s.accept (.drvWrite addr data)) hm hr))

/-- Settles O27: the body is `readStatus_explicit`, whose value nothing masks. -/
theorem drvRdsrAnswersTheStatus : Obligations.DrvRdsrAnswersTheStatus := by
  intro s ⟨hseq, hm⟩
  exact exec_host_ok (i := .drvRdsr) hseq rfl rfl (op_bind_ok (readStatus_explicit (s := s.accept .drvRdsr) hm))

/-- Settles O28: the body is `writeStatus_explicit`. -/
theorem drvWrsrWritesTheStatus : Obligations.DrvWrsrWritesTheStatus := by
  intro s v ⟨hseq, hm⟩
  exact exec_host_ok (i := .drvWrsr v) hseq rfl rfl (op_then_ok (writeStatus_explicit (s := s.accept (.drvWrsr v)) hm v))

/-- Settles O29: one transaction each, whose effect on the device is `apply_wren` and `apply_wrdi`. -/
theorem drvLatchOpsComplete : Obligations.DrvLatchOpsComplete := by
  intro s ⟨hseq, hm⟩
  rw [← apply_wren s.dev s.wp, ← apply_wrdi s.dev s.wp]
  exact ⟨exec_host_ok (i := .drvWren) hseq rfl rfl
      (op_then_ok (txn_sendOnly (s := s.accept .drvWren) (f := .wren) hm fun _ => rfl)),
    exec_host_ok (i := .drvWrdi) hseq rfl rfl
      (op_then_ok (txn_sendOnly (s := s.accept .drvWrdi) (f := .wrdi) hm fun _ => rfl))⟩

/-- Settles O30: each is a command and a wait, with `apply_sleep_elapse` and `apply_wake_elapse` for the device. -/
theorem drvPowerOpsComplete : Obligations.DrvPowerOpsComplete := by
  intro s ⟨hseq, hm⟩
  rw [← apply_sleep_elapse s.dev s.wp, ← apply_wake_elapse s.dev s.wp]
  exact ⟨exec_host_ok (i := .drvSleep) hseq rfl rfl
      (sendThenDelay_explicit (s := s.accept .drvSleep) (f := .sleep) hm (fun _ => rfl) _ _),
    exec_host_ok (i := .drvWake) hseq rfl rfl
      (sendThenDelay_explicit (s := s.accept .drvWake) (f := .wake) hm (fun _ => rfl) _ _)⟩

/-- Settles O31: the body is `setBlockProtect_explicit`, and what it writes is `newStatus_of_cfg`. -/
theorem drvSetBpRewritesProtection : Obligations.DrvSetBpRewritesProtection := by
  intro s cfg ⟨hseq, hm⟩ hcfg sr v
  obtain ⟨q, hq⟩ := setBlockProtect_explicit (s := s.accept (.drvSetBp cfg)) hm cfg rfl (newStatus_of_cfg sr cfg)
  exact exec_host_ok (i := .drvSetBp cfg) hseq rfl (beq_iff_eq.2 hcfg) (op_then_ok hq)

/-! ## The absent device (40_driver.md R115; log 35) -/

section

variable {d : Device} (hd : d.params.present = false)
include hd

theorem cutTxn_absent {s : State} (h : s.dev = d) (f : Frame) (done : Nat) : (s.cutTxn f done).dev = d := by
  subst h
  unfold State.cutTxn
  split_ifs
  · rfl
  · exact Device.cut_absent hd _ f

theorem powerLoss_absent {s : State} (h : s.dev = d) : s.powerLoss.dev = d := by
  subst h
  exact Device.powerCycle_absent hd _

theorem struck_absent {s : State} (h : s.dev = d) (kind : MishapKind) : (s.struck kind).dev = d := by
  cases kind with
  | powerLoss => exact powerLoss_absent hd h
  | busFault | hang => exact h

/-- Nothing that a body does, and no mishap during it, changes an absent device. -/
theorem absent_keeps (i : Instr) : Keeps i (fun s => s.dev = d) (fun s => s.dev = d) where
  regs _ h := h
  txn _ _ h := by subst h; exact Device.apply_absent hd _ _
  cut done _ _ h _ := struck_absent hd (cutTxn_absent hd h _ done) _
  delay _ _ us h := by subst h; exact Device.elapse_absent hd us
  lock _ _ h := h
  strike {s _} h _ := struck_absent (s := { s with mishap := none }) hd h _
  mark _ _ _ _ h := h

theorem exec_absent {i : Instr} {s t : State} (h : s.dev = d) (he : exec i s = .next t) : t.dev = d := by
  obtain ⟨-, ⟨-, -, rfl⟩ | ⟨-, hend⟩⟩ := exec_next_keeps (absent_keeps hd i) he h
  · exact h
  · cases hend with
    | answered _ ht => exact ht
    | released _ ht => exact ht
    | abandoned ht => exact ht

theorem step_absent {s t : State} (h : s.dev = d) (hstep : step s = .next t) : t.dev = d := by
  rcases step_next hstep with ⟨-, rfl⟩ | ⟨x, rest, -, hx⟩
  · exact h
  rcases hx with ⟨c, i, -, -, he⟩ | ⟨c, -, rfl⟩ | ⟨-, rfl⟩ | ⟨-, rfl⟩ | ⟨m, -, rfl⟩
  · exact exec_absent (s := { s with inputs := rest }) hd h he
  · exact h
  · exact h
  · exact powerLoss_absent (s := { s with inputs := rest }) hd h
  · exact h

end

/-- After DRV_WAKE with no device on the bus, which wakes nothing, DRV_RDSR answers the next byte of the oracle after the
two opcodes. -/
theorem wake_rdsr_absent {s : State} (hs : s.ready) (hd : s.dev.params.present = false) :
    ∃ t u : State, exec .drvWake s = .next t ∧ exec .drvRdsr t = .next u ∧
      u.response = some { result := 0x00#8, data := .status (Config.oracleByte (s.draws + 2)) } := by
  obtain ⟨-, hwake⟩ := drvPowerOpsComplete s hs
  simp only [hd, Bool.false_eq_true, if_false] at hwake
  have silent : s.dev.seenStatus (s.draws + 1) = Config.oracleByte (s.draws + 2) :=
    Device.seenStatus_silent (Device.answers_absent hd) _
  rw [← silent]
  exact ⟨_, _, hwake, drvRdsrAnswersTheStatus _ hs, rfl⟩

/-- Settles O60: the device by `step_absent`, what is read by the operations' own theorems. -/
theorem absentDeviceIsNeverHeard : Obligations.AbsentDeviceIsNeverHeard := by
  refine ⟨fun s t hd hstep => step_absent hd rfl hstep, fun s hs hd => ⟨wake_rdsr_absent hs hd, fun addr n hr => ?_⟩⟩
  have hread := drvReadAnswersTheBytes s addr n hs hr
  rw [Device.seenBytes_silent (Device.answers_absent hd)] at hread
  exact ⟨_, hread, rfl⟩

end Sys2Proof.Machine

/-! # Proofs of the codec family (41_codec.md)

## Byte lists and the words they spell (00_scope.md R8, R9) -/

namespace Sys2Proof.Machine

/-- A word of n bytes is the value of its bytes. -/
theorem ofNat_fromLe_leBytes {w n : Nat} (hw : 2 ^ w = 256 ^ n) (v : BitVec w) :
    BitVec.ofNat w (fromLe (leBytes n v.toNat)) = v := by
  rw [fromLe_leBytes, ← hw, Nat.mod_eq_of_lt v.isLt, BitVec.ofNat_toNat, BitVec.setWidth_eq]

theorem leBytes_one (v : Byte) : leBytes 1 v.toNat = [v] := by
  rw [leBytes, leBytes, BitVec.ofNat_toNat, BitVec.setWidth_eq]

/-- A byte list no longer than a word spells a value that the word can hold. -/
theorem fromLe_lt_word {w n : Nat} (hw : 2 ^ w = 256 ^ n) {l : List Byte} (hl : l.length ≤ n) :
    fromLe l < 2 ^ w := calc
  fromLe l < 256 ^ l.length := fromLe_lt l
  _ ≤ 256 ^ n := Nat.pow_le_pow_right (by decide) hl
  _ = 2 ^ w := hw.symm

theorem toNat_ofNat_fromLe {w n : Nat} (hw : 2 ^ w = 256 ^ n) {l : List Byte} (hl : l.length ≤ n) :
    (BitVec.ofNat w (fromLe l)).toNat = fromLe l := by
  rw [BitVec.toNat_ofNat, Nat.mod_eq_of_lt (fromLe_lt_word hw hl)]

/-- The bytes of the word that as many bytes spell. -/
theorem leBytes_ofNat_fromLe {w n : Nat} (hw : 2 ^ w = 256 ^ n) {l : List Byte} (hl : l.length = n) :
    leBytes n (BitVec.ofNat w (fromLe l)).toNat = l := by
  rw [toNat_ofNat_fromLe hw hl.le, ← hl, leBytes_fromLe]

theorem slice_length_le (l : List Byte) (i j : Nat) : (slice l i j).length ≤ j - i := by
  rw [slice_length]
  exact Nat.min_le_left _ _

theorem slice_length_of_le {l : List Byte} {j : Nat} (hj : j ≤ l.length) (i : Nat) :
    (slice l i j).length = j - i := by
  rw [slice_length]
  omega

/-- What stands between two parts of a byte list, taken out by its offsets. -/
theorem slice_append_mid {pre mid : List Byte} {i j : Nat} (hi : pre.length = i) (hj : mid.length = j - i)
    (post : List Byte) : slice (pre ++ mid ++ post) i j = mid := by
  rw [slice, List.append_assoc, List.drop_left' hi, List.take_left' hj]

/-- Slices that meet, put together. -/
theorem slice_append_slice (l : List Byte) {i j k : Nat} (hij : i ≤ j) (hjk : j ≤ k) :
    slice l i j ++ slice l j k = slice l i k := by
  rw [slice, slice, slice, show k - i = (j - i) + (k - j) by omega, List.take_add, List.drop_drop,
    show i + (j - i) = j by omega]

theorem slice_one {l : List Byte} {i : Nat} (h : i < l.length) : slice l i (i + 1) = [l.getD i 0#8] := by
  rw [slice, Nat.add_sub_cancel_left, List.drop_eq_getElem_cons h, List.getD_eq_getElem _ _ h]
  rfl

/-! ## The codec's functions -/

/-- The four parts of a payload, each where 41_codec.md R152 places it. -/
theorem slices_encodeRecord (r : Bureau) :
    slice (encodeRecord r) 0 8 = le8 r.progQty ∧ slice (encodeRecord r) 8 12 = le4 r.mathQty ∧
      slice (encodeRecord r) 12 13 = [r.headQty] ∧ slice (encodeRecord r) 16 20 = le4 r.salaryBits := by
  have h8 : (le8 r.progQty).length = 8 := leBytes_length _ _
  have h12 : (le8 r.progQty ++ le4 r.mathQty).length = 12 := by simp [le8, le4]
  have h16 : (le8 r.progQty ++ le4 r.mathQty ++ [r.headQty] ++ zeros 3).length = 16 := by simp [le8, le4, zeros]
  have h4 (v : Word) : (le4 v).length = 4 := leBytes_length _ _
  refine ⟨?_, ?_, ?_, ?_⟩
  · simpa only [encodeRecord, List.append_assoc, List.nil_append] using slice_append_mid (pre := []) (i := 0) rfl h8 _
  · simpa only [encodeRecord, List.append_assoc] using slice_append_mid (j := 12) h8 (h4 r.mathQty) _
  · simpa only [encodeRecord, List.append_assoc] using
      slice_append_mid (mid := [r.headQty]) (j := 13) h12 rfl (zeros 3 ++ le4 r.salaryBits)
  · simpa only [encodeRecord, List.append_nil] using slice_append_mid (j := 20) h16 (h4 r.salaryBits) []

/-- 41_codec.md R157: nothing of a record is lost in its payload. -/
theorem decodeRecord_encodeRecord (r : Bureau) : decodeRecord (encodeRecord r) = r := by
  obtain ⟨hprog, hmath, hhead, hsalary⟩ := slices_encodeRecord r
  rw [decodeRecord, hprog, hmath, hhead, hsalary, ← leBytes_one r.headQty, le8, le4, le4]
  simp only [ofNat_fromLe_leBytes (n := 8) (w := 64) rfl, ofNat_fromLe_leBytes (n := 4) (w := 32) rfl,
    ofNat_fromLe_leBytes (n := 1) (w := 8) rfl]

/-- 41_codec.md R157: a payload loses only its reserved bytes in its record. -/
theorem encodeRecord_decodeRecord {b : List Byte} (hb : b.length = 20) :
    encodeRecord (decodeRecord b) = slice b 0 13 ++ [0#8, 0#8, 0#8] ++ slice b 16 20 := by
  have hlen (i j : Nat) (hj : j ≤ 20) : (slice b i j).length = j - i := slice_length_of_le (hj.trans_eq hb.symm) i
  have hprog : le8 (decodeRecord b).progQty = slice b 0 8 := leBytes_ofNat_fromLe rfl (hlen 0 8 (by decide))
  have hmath : le4 (decodeRecord b).mathQty = slice b 8 12 := leBytes_ofNat_fromLe rfl (hlen 8 12 (by decide))
  have hhead : [(decodeRecord b).headQty] = slice b 12 13 := by
    rw [← leBytes_one]
    exact leBytes_ofNat_fromLe rfl (hlen 12 13 (by decide))
  have hsalary : le4 (decodeRecord b).salaryBits = slice b 16 20 := leBytes_ofNat_fromLe rfl (hlen 16 20 (by decide))
  calc encodeRecord (decodeRecord b)
    _ = slice b 0 8 ++ slice b 8 12 ++ slice b 12 13 ++ zeros 3 ++ slice b 16 20 := by
      rw [encodeRecord, hprog, hmath, hhead, hsalary]
    _ = slice b 0 13 ++ zeros 3 ++ slice b 16 20 := by
      rw [slice_append_slice b (by decide : 0 ≤ 8) (by decide : 8 ≤ 12),
        slice_append_slice b (by decide : 0 ≤ 12) (by decide : 12 ≤ 13)]

/-- The fields of a decoded record are the values of its payload's parts (41_codec.md R152, R155). -/
theorem decodeRecord_fields {b : List Byte} (hb : b.length = 20) :
    (decodeRecord b).progQty.toNat = fromLe (slice b 0 8) ∧ (decodeRecord b).mathQty.toNat = fromLe (slice b 8 12) ∧
      (decodeRecord b).headQty = b.getD 12 0#8 ∧ (decodeRecord b).salaryBits.toNat = fromLe (slice b 16 20) := by
  have hhead : BitVec.ofNat 8 (fromLe (slice b 12 13)) = b.getD 12 0#8 := by
    rw [slice_one (by omega), ← leBytes_one]
    exact ofNat_fromLe_leBytes rfl _
  exact ⟨toNat_ofNat_fromLe (n := 8) rfl (slice_length_le b 0 8),
    toNat_ofNat_fromLe (n := 4) rfl (slice_length_le b 8 12), hhead,
    toNat_ofNat_fromLe (n := 4) rfl (slice_length_le b 16 20)⟩

/-! ## The bodies of the codec, which send nothing and so meet no mishap -/

/-- 41_codec.md R156: with 64-bit counts the check of a 64-bit count passes. -/
theorem checkCount_ok {p : Nat} (h : p < 2 ^ 64) (s : State) : checkCount p s = .ok () s :=
  if_neg (Nat.not_le.2 h)

theorem codecEncode_run (r : Bureau) (s : State) :
    codecEncode r s = .ok (encodeRecord r) { s with regs := { s.regs with pay := some (encodeRecord r) } } := by
  rw [codecEncode, op_then_ok (checkCount_ok r.progQty.isLt s), op_then_ok (setPay_run (encodeRecord r) s)]
  exact getPay_some rfl

theorem codecDecode_run (b : List Byte) (s : State) : codecDecode b s = .ok (decodeRecord b) s :=
  op_then_ok (checkCount_ok (fromLe_lt_word (n := 8) rfl (slice_length_le b 0 8)) s)

/-! ## The obligations -/

/-- Settles O32: the two round trips, the first of which makes the encoding injective. -/
theorem recordCodecRoundTrip : Obligations.RecordCodecRoundTrip :=
  ⟨decodeRecord_encodeRecord, fun _ hb => encodeRecord_decodeRecord hb,
    fun _ _ h => Function.LeftInverse.injective decodeRecord_encodeRecord h⟩

/-- Settles O34: the body is `codecDecode_run`, and what it decodes is `decodeRecord_fields`. -/
theorem recDecodeAnswersTheRecord : Obligations.RecDecodeAnswersTheRecord := by
  intro s b hs hb
  refine ⟨decodeRecord b, ?_, decodeRecord_fields hb⟩
  exact exec_host_ok (i := .recDecode b) hs rfl (beq_iff_eq.2 hb) (op_bind_ok (codecDecode_run b _))

/-- Settles O33: the body is `codecEncode_run`, which leaves the payload in `PAY`. -/
theorem recEncodeAnswersThePayload : Obligations.RecEncodeAnswersThePayload := by
  intro s r hs p
  refine ⟨encodeRecord_length r, ?_⟩
  exact exec_host_ok (i := .recEncode r) hs rfl rfl (op_bind_ok (codecEncode_run r _))

end Sys2Proof.Machine

/-! # Proofs of the CRC32 family (42_crc32.md)

The register's bit step is linear over xor and one-to-one. By the first an error pattern makes the same difference to
every checksum of its length (R175); by the second lists that differ in one byte only have different checksums.

## The bit step (R171) -/

namespace Sys2Proof.Machine

theorem crcBit_of_even {c : Word} (h : c.getLsbD 0 = false) : crcBit c = c >>> 1 := by
  rw [crcBit, if_neg (by rw [h]; decide)]

theorem crcBit_of_odd {c : Word} (h : c.getLsbD 0 = true) : crcBit c = (c >>> 1) ^^^ Config.crcPoly := by
  rw [crcBit, if_pos h]

/-- The bit step is linear over xor: the polynomial that two odd registers bring in cancels. -/
theorem crcBit_xor : Function.Semiconj₂ crcBit (· ^^^ ·) (· ^^^ ·) := by
  intro x y
  have hsum : (x ^^^ y).getLsbD 0 = (x.getLsbD 0 ^^ y.getLsbD 0) := BitVec.getLsbD_xor
  show crcBit (x ^^^ y) = crcBit x ^^^ crcBit y
  cases hx : x.getLsbD 0 <;> cases hy : y.getLsbD 0 <;> rw [hx, hy] at hsum
  case false.false =>
    rw [crcBit_of_even hsum, crcBit_of_even hx, crcBit_of_even hy, BitVec.ushiftRight_xor_distrib]
  case false.true =>
    rw [crcBit_of_odd hsum, crcBit_of_even hx, crcBit_of_odd hy, BitVec.ushiftRight_xor_distrib, BitVec.xor_assoc]
  case true.false =>
    rw [crcBit_of_odd hsum, crcBit_of_odd hx, crcBit_of_even hy, BitVec.ushiftRight_xor_distrib]
    ac_rfl
  case true.true =>
    rw [crcBit_of_even hsum, crcBit_of_odd hx, crcBit_of_odd hy, BitVec.ushiftRight_xor_distrib]
    calc x >>> 1 ^^^ y >>> 1
      _ = (x >>> 1 ^^^ y >>> 1) ^^^ (Config.crcPoly ^^^ Config.crcPoly) := by simp
      _ = (x >>> 1 ^^^ Config.crcPoly) ^^^ (y >>> 1 ^^^ Config.crcPoly) := by ac_rfl

/-- The top bit after a bit step tells the bit that was shifted out, since the polynomial has its top bit set. -/
theorem crcBit_top (c : Word) : (crcBit c).getLsbD 31 = c.getLsbD 0 := by
  cases h : c.getLsbD 0 with
  | false => simp [crcBit_of_even h]
  | true => simp [crcBit_of_odd h, Config.crcPoly]

/-- Only the zero register steps to zero. -/
theorem eq_zero_of_crcBit {c : Word} (h : crcBit c = 0#32) : c = 0#32 := by
  have hlow : c.getLsbD 0 = false := by rw [← crcBit_top, h, BitVec.getLsbD_zero]
  have hhigh : c >>> 1 = 0#32 := by rw [← crcBit_of_even hlow, h]
  refine BitVec.eq_of_getLsbD_eq fun k _ => ?_
  rw [BitVec.getLsbD_zero]
  cases k with
  | zero => exact hlow
  | succ k => simpa [Nat.add_comm] using congrArg (BitVec.getLsbD · k) hhigh

theorem crcBit_injective : Function.Injective crcBit := by
  intro x y h
  refine BitVec.xor_eq_zero_iff.1 (eq_zero_of_crcBit ?_)
  rw [crcBit_xor.eq, h, BitVec.xor_self]

/-! ## The byte step (R171) -/

theorem crcByte_eq (c : Word) (b : Byte) : crcByte c b = crcBit^[8] (c ^^^ b.setWidth 32) := rfl

theorem crcByte_xor (c d : Word) (a b : Byte) : crcByte (c ^^^ d) (a ^^^ b) = crcByte c a ^^^ crcByte d b := by
  rw [crcByte_eq, crcByte_eq, crcByte_eq, ← (crcBit_xor.iterate 8).eq, BitVec.setWidth_xor]
  congr 1
  ac_rfl

theorem crcByte_injective_register (b : Byte) : Function.Injective (crcByte · b) := fun _ _ h =>
  (BitVec.xor_left_inj _).1 (crcBit_injective.iterate 8 h)

theorem setWidth_byte_injective : Function.Injective (fun b : Byte => b.setWidth 32) :=
  Function.LeftInverse.injective (g := BitVec.setWidth 8) fun b =>
    (BitVec.setWidth_setWidth_of_le b (by decide)).trans (BitVec.setWidth_eq b)

theorem crcByte_injective_byte (c : Word) : Function.Injective (crcByte c) := fun _ _ h =>
  setWidth_byte_injective ((BitVec.xor_right_inj _).1 (crcBit_injective.iterate 8 h))

/-! ## A byte list (R173) -/

theorem crcUpdate_cons (c : Word) (b : Byte) (l : List Byte) :
    crcUpdate c (b :: l) = crcUpdate (crcByte c b) l := rfl

theorem crcUpdate_concat (c : Word) (l : List Byte) (b : Byte) :
    crcUpdate c (l ++ [b]) = crcByte (crcUpdate c l) b := List.foldl_concat ..

theorem crcUpdate_xor {a e : List Byte} (h : a.length = e.length) (c d : Word) :
    crcUpdate (c ^^^ d) (List.zipWith (· ^^^ ·) a e) = crcUpdate c a ^^^ crcUpdate d e := by
  induction a generalizing e c d with
  | nil => rw [List.eq_nil_of_length_eq_zero h.symm, List.zipWith_nil_left]; rfl
  | cons x a ih =>
    obtain ⟨y, e, rfl⟩ := List.exists_cons_of_length_eq_add_one h.symm
    rw [List.zipWith_cons_cons, crcUpdate_cons, crcByte_xor, ih (Nat.succ.inj h)]
    rfl

theorem crcUpdate_injective (l : List Byte) : Function.Injective (crcUpdate · l) := by
  induction l with
  | nil => exact Function.injective_id
  | cons b l ih => exact ih.comp (crcByte_injective_register b)

/-- Lists that differ in one byte only drive the register apart at that byte, and no later byte brings it back. -/
theorem crcUpdate_modify_ne {f : Byte → Byte} (hf : ∀ b, f b ≠ b) {l : List Byte} {n : Nat} (hn : n < l.length)
    (c : Word) : crcUpdate c (l.modify n f) ≠ crcUpdate c l := by
  induction l generalizing n c with
  | nil => exact absurd hn (Nat.not_lt_zero n)
  | cons b l ih =>
    cases n with
    | zero => exact fun h => hf b (crcByte_injective_byte c (crcUpdate_injective l h))
    | succ n => exact ih (Nat.lt_of_succ_lt_succ hn) (crcByte c b)

/-! ## The checksum (R172, R175) -/

/-- The register before the final complement. -/
theorem crc32_complement (l : List Byte) : crc32 l ^^^ 0xFFFFFFFF#32 = crcUpdate Config.crcInit l := by
  rw [crc32, Config.crcXorOut, BitVec.xor_assoc, BitVec.xor_self, BitVec.xor_zero]

theorem crc32_xor_crc32 (k l : List Byte) :
    crc32 k ^^^ crc32 l = crcUpdate Config.crcInit k ^^^ crcUpdate Config.crcInit l := by
  rw [← crc32_complement, ← crc32_complement]
  calc crc32 k ^^^ crc32 l
    _ = crc32 k ^^^ crc32 l ^^^ (0xFFFFFFFF#32 ^^^ 0xFFFFFFFF#32) := by rw [BitVec.xor_self, BitVec.xor_zero]
    _ = (crc32 k ^^^ 0xFFFFFFFF#32) ^^^ (crc32 l ^^^ 0xFFFFFFFF#32) := by ac_rfl

/-- What an error pattern `e` does to the register does not depend on the bytes it falls on: it is what `e` leaves in a
register that begins at zero. -/
theorem crcUpdate_error {a e : List Byte} (h : a.length = e.length) (c : Word) :
    crcUpdate c (List.zipWith (· ^^^ ·) a e) ^^^ crcUpdate c a = crcUpdate 0#32 e := by
  have hxor := crcUpdate_xor h c 0#32
  rw [BitVec.xor_zero] at hxor
  rw [hxor, BitVec.xor_comm, ← BitVec.xor_assoc, BitVec.xor_self, BitVec.zero_xor]

theorem zipWith_zeros (e : List Byte) : List.zipWith (· ^^^ ·) (zeros e.length) e = e := by
  induction e with
  | nil => rfl
  | cons b e ih =>
    rw [List.length_cons, zeros, List.replicate_succ, List.zipWith_cons_cons, BitVec.zero_xor]
    exact congrArg (b :: ·) ih

theorem flippedByte_ne {k : Nat} (hk : k < 8) (b : Byte) : b ^^^ (1#8 <<< k) ≠ b := by
  have hbit : ∀ k < 8, 1#8 <<< k ≠ 0#8 := by decide
  exact fun h => hbit k hk ((BitVec.xor_right_inj b).1 (h.trans BitVec.xor_zero.symm))

/-- Any bit of any byte list. -/
theorem crc32_flipBit_ne {l : List Byte} {i : Nat} (hi : i < 8 * l.length) : crc32 (flipBit l i) ≠ crc32 l := by
  have hbyte (b : Byte) : b ^^^ (1#8 <<< (i % 8)) ≠ b := flippedByte_ne (Nat.mod_lt i (by decide)) b
  intro h
  refine crcUpdate_modify_ne hbyte (Nat.div_lt_of_lt_mul hi) Config.crcInit ?_
  exact (BitVec.xor_left_inj _).1 h

/-! ## The run of the generator (R173), which sends nothing and so meets no mishap -/

theorem crcRun_run (data : List Byte) (s : State) :
    crcRun data s =
      .ok (crc32 data) { s with regs := { s.regs with crc := some (crcUpdate Config.crcInit data) } } := by
  rw [crcRun, op_then_ok (setCrc_run _ s), op_bind_ok (getCrc_some rfl)]
  rfl

/-! ## The run of STORE_READ with no mishap armed (43_store.md R191, R203 to R207) -/

/-- The state after a completed driver read of `n` bytes from `addr` (40_driver.md R111), its working registers then set
to `r`. -/
def State.afterRead (s : State) (addr : Word) (n : Nat) (r : WorkRegs) : State :=
  { s with
    cs := false, seq := s.seq.advance (4 + n + 2), draws := s.draws + (4 + n), regs := r
    trace := s.trace ++ [.txn (0x03#8 :: (be3 (busAddr addr) ++ zeros n)) (s.dev.seenBytes s.draws addr.toNat n)] }

theorem memRead_run {s : State} (hm : s.mishap = none) {addr : Word} {n : Nat} (hr : addr.toNat + n ≤ 0x80000) :
    memRead addr n s =
      .ok (s.dev.seenBytes s.draws addr.toNat n)
        (s.afterRead addr n { s.regs with rx := some (s.dev.seenBytes s.draws addr.toNat n) }) :=
  memRead_explicit hm hr

/-- The state after `ReadHdr` of slot `x` has captured the bytes `l` (43_store.md R191). -/
def State.afterHdr (s : State) (x : Slot) (l : List Byte) : State :=
  s.afterRead (BitVec.ofNat 32 (hdrOff x)) Config.headerSize
    (WorkRegs.putHdr (WorkRegs.putHbuf { s.regs with rx := some l } x l) x (validate l))

theorem readHdr_run {s : State} (hm : s.mishap = none) (x : Slot) :
    readHdr x s = .ok () (s.afterHdr x (s.dev.seenBytes s.draws (hdrOff x) Config.headerSize)) := by
  cases x with
  | A =>
    rw [readHdr, op_bind_ok (memRead_run hm (by decide)), op_then_ok (setHbufA_run _ _), op_bind_ok (getHbufA_some rfl)]
    exact setHdrA_run _ _
  | B =>
    rw [readHdr, op_bind_ok (memRead_run hm (by decide)), op_then_ok (setHbufB_run _ _), op_bind_ok (getHbufB_some rfl)]
    exact setHdrB_run _ _

@[simp] theorem State.afterHdr_mishap (s : State) (x : Slot) (l : List Byte) :
    (s.afterHdr x l).mishap = s.mishap := rfl

/-- The state after both `ReadHdr` (43_store.md R203). -/
def State.afterHdrs (s : State) : State :=
  (s.afterHdr .A (s.dev.seenBytes s.draws 0x000 24)).afterHdr .B (s.dev.seenBytes (s.draws + 28) 0x100 24)

/-- STORE_READ up to its choice of a slot (43_store.md R203, R204). -/
theorem storeRead_run {s : State} (hm : s.mishap = none) :
    storeRead s =
      readPick (validate (s.dev.seenBytes s.draws 0x000 24)) (validate (s.dev.seenBytes (s.draws + 28) 0x100 24))
        s.afterHdrs := by
  rw [storeRead, op_then_ok (readHdr_run hm .A), op_then_ok (readHdr_run (by simp [hm]) .B),
    op_bind_ok (getHdrA_some rfl), op_bind_ok (getHdrB_some rfl)]
  rfl

/-- The header picked is one of the two (43_store.md R205). -/
theorem pick_header {ha hb : Option Header} {x : Slot} {h : Header} (hp : pick ha hb = some (x, h)) :
    ha = some h ∨ hb = some h := by
  unfold pick at hp
  split at hp
  · split_ifs at hp <;> cases hp
    · exact .inl rfl
    · exact .inr rfl
  · cases hp; exact .inl rfl
  · cases hp; exact .inr rfl
  · cases hp

theorem consistent_of_validate {l : List Byte} {h : Header} (hv : validate l = some h) : h.consistent = true := by
  unfold validate at hv
  split_ifs at hv with hc
  cases hv
  exact hc

/-- A picked header passes the re-check (43_store.md R206). -/
theorem recheck_picked {la lb : List Byte} {x : Slot} {h : Header}
    (hp : pick (validate la) (validate lb) = some (x, h)) (s : State) : recheck h s = .ok () s :=
  if_pos ((pick_header hp).elim consistent_of_validate consistent_of_validate)

theorem readPick_picked {ha hb : Option Header} {x : Slot} {h : Header} (hp : pick ha hb = some (x, h)) :
    readPick ha hb = readPicked x h := by
  simp only [readPick, hp]

/-- The state after STORE_READ's step 4 has read the bytes `l` of slot `x` (43_store.md R207). -/
def State.afterPayload (s : State) (x : Slot) (l : List Byte) : State :=
  s.afterRead (BitVec.ofNat 32 (payOff x)) Config.payloadSize
    { s.regs with rx := some l, pay := some l, crc := some (crc32 l) }

/-- STORE_READ's step 4 up to its check (43_store.md R207). -/
theorem readPayload_run {s : State} (hm : s.mishap = none) {x : Slot} (hx : s.regs.pick = some x) (h : Header) :
    readPayload h s =
      checkIntegrity h (crc32 (s.dev.seenBytes s.draws (payOff x) 20))
        (s.afterPayload x (s.dev.seenBytes s.draws (payOff x) 20)) := by
  have hread := memRead_run hm (addr := BitVec.ofNat 32 (payOff x)) (n := Config.payloadSize) (by cases x <;> decide)
  rw [show (BitVec.ofNat 32 (payOff x)).toNat = payOff x by cases x <;> rfl] at hread
  rw [readPayload, op_bind_ok (getPick_some hx), op_bind_ok hread, op_then_ok (setPay_run _ _),
    op_bind_ok (getPay_some rfl), op_bind_ok (crcRun_run _ _), op_then_ok (setCrc_run _ _),
    op_bind_ok (getCrc_some rfl)]
  rfl

/-- STORE_READ of a picked slot whose payload does not have the checksum in its header (43_store.md R207). -/
theorem storeRead_integrity {s : State} (hm : s.mishap = none) {x : Slot} {h : Header}
    (hp : pick (validate (s.dev.seenBytes s.draws 0x000 24)) (validate (s.dev.seenBytes (s.draws + 28) 0x100 24)) =
      some (x, h))
    (hc : crc32 (s.dev.seenBytes (s.draws + 56) (payOff x) 20) ≠ h.crc32) :
    storeRead s =
      .stop (.raised .integrity)
        ({ s.afterHdrs with regs := { s.afterHdrs.regs with pick := some x } : State }.afterPayload x
          (s.dev.seenBytes (s.draws + 56) (payOff x) 20)) := by
  rw [storeRead_run hm, readPick_picked hp, readPicked, op_then_ok (setPick_run x _), op_then_ok (recheck_picked hp _)]
  exact op_then_stop ((readPayload_run (by exact hm) rfl h).trans (if_neg hc))

/-! ## The obligations -/

/-- Settles O38, by running the 72 bit steps. -/
theorem crcCheckValue : Obligations.CrcCheckValue := by
  unfold Obligations.CrcCheckValue
  decide +kernel

/-- Settles O39: the body is `crcRun_run`, and one more byte is one more byte step on the complement. -/
theorem crc32AnswersTheChecksum : Obligations.Crc32AnswersTheChecksum := by
  refine ⟨fun s data hs hl => ?_, rfl, fun l b => ?_⟩
  · rw [crc32_complement]
    exact exec_host_ok (i := .crc32 data) hs rfl (decide_eq_true hl)
      (op_bind_ok (f := fun c => Op.pure (RespData.crc c)) (crcRun_run data _))
  · rw [crc32_complement, crc32_complement, crcUpdate_concat]
    rfl

/-- Settles O40: both sides are `crcUpdate_error` of the pattern, on the bytes and on zeros. -/
theorem crcErrorDifferenceIsFixed : Obligations.CrcErrorDifferenceIsFixed := by
  intro a e h
  have hzeros := crcUpdate_error (zeros_length e.length) Config.crcInit
  rw [zipWith_zeros] at hzeros
  rw [crc32_xor_crc32, crc32_xor_crc32, crcUpdate_error h, hzeros]

/-- Settles O41: `crc32_flipBit_ne` at 160 bits. -/
theorem crcSeesEverySingleBitFlip : Obligations.CrcSeesEverySingleBitFlip :=
  fun _ _ hp hi => crc32_flipBit_ne (by omega)

/-- Settles O49: both devices have one header picked, and the flipped payload's checksum is not the one in it. -/
theorem flippedPayloadBitFailsIntegrity : Obligations.FlippedPayloadBitFailsIntegrity := by
  intro d s w h i hp hcrc hi ⟨hs, hm⟩ ha hhdr hflip
  have hseen (draws a n : Nat) : (s.accept .storeRead).dev.seenBytes draws a n = s.dev.bytesAt a n :=
    Device.seenBytes_answers ha draws a n
  have hpick : pick (s.dev.header .A) (s.dev.header .B) = some (w, h) := by rw [hhdr, hhdr, hp]
  have hlen : (d.payload w).length = 20 := Memory.readRange_length ..
  have hbad : crc32 (s.dev.payload w) ≠ h.crc32 := by
    rw [hflip, ← hcrc]
    exact crc32_flipBit_ne (by omega)
  have hbody := storeRead_integrity (s := s.accept .storeRead) hm (x := w) (h := h)
    (by rw [hseen, hseen]; exact hpick) (by rw [hseen]; exact hbad)
  exact ⟨_, exec_host_raised (i := .storeRead) hs rfl rfl hbody, rfl, rfl⟩

end Sys2Proof.Machine

/-! # Proofs of the store family (43_store.md)

## Headers (R185, R186, R189) -/

namespace Sys2Proof.Machine

/-- Each field of a parsed header is the value of its bytes. -/
theorem parseHeader_fields (h : List Byte) :
    (parseHeader h).magic.toNat = fromLe (slice h 0 4) ∧ (parseHeader h).version.toNat = fromLe (slice h 4 6) ∧
      (parseHeader h).reserved.toNat = fromLe (slice h 6 8) ∧ (parseHeader h).length.toNat = fromLe (slice h 8 12) ∧
      (parseHeader h).crc32.toNat = fromLe (slice h 12 16) ∧ (parseHeader h).seqno.toNat = fromLe (slice h 16 24) :=
  ⟨toNat_ofNat_fromLe (n := 4) rfl (slice_length_le h 0 4), toNat_ofNat_fromLe (n := 2) rfl (slice_length_le h 4 6),
    toNat_ofNat_fromLe (n := 2) rfl (slice_length_le h 6 8), toNat_ofNat_fromLe (n := 4) rfl (slice_length_le h 8 12),
    toNat_ofNat_fromLe (n := 4) rfl (slice_length_le h 12 16),
    toNat_ofNat_fromLe (n := 8) rfl (slice_length_le h 16 24)⟩

theorem consistent_iff (h : Header) :
    h.consistent = true ↔ h.magic.toNat = 0x45525542 ∧ h.version.toNat = 1 ∧ h.length.toNat = 20 := by
  simp only [Header.consistent, Bool.and_eq_true, beq_iff_eq, and_assoc, ← BitVec.toNat_inj]
  rfl

/-- Settles O35: what `consistent_iff` says of the fields, said of the bytes they are the values of. -/
theorem validationChecksThreeFields : Obligations.ValidationChecksThreeFields := by
  intro h _
  obtain ⟨hmagic, hversion, -, hlength, -, -⟩ := parseHeader_fields h
  refine ⟨?_, parseHeader_fields h⟩
  simp only [validate, consistent_iff, hmagic, hversion, hlength]

/-- The bytes of a header's fields, in the order of 20_memory.md R58. -/
def Header.layout (h : Header) : List Byte :=
  le4 h.magic ++ le2 h.version ++ le2 h.reserved ++ le4 h.length ++ le4 h.crc32 ++ le8 h.seqno

/-- Each field's bytes stand where 43_store.md R185 reads them. -/
theorem slices_layout (h : Header) :
    slice h.layout 0 4 = le4 h.magic ∧ slice h.layout 4 6 = le2 h.version ∧ slice h.layout 6 8 = le2 h.reserved ∧
      slice h.layout 8 12 = le4 h.length ∧ slice h.layout 12 16 = le4 h.crc32 ∧ slice h.layout 16 24 = le8 h.seqno :=
  ⟨rfl, rfl, rfl, rfl, rfl, rfl⟩

theorem parseHeader_layout (h : Header) : parseHeader h.layout = h := by
  obtain ⟨hmagic, hversion, hreserved, hlength, hcrc, hseq⟩ := slices_layout h
  rw [parseHeader, hmagic, hversion, hreserved, hlength, hcrc, hseq]
  simp only [le2, le4, le8, ofNat_fromLe_leBytes (n := 2) (w := 16) rfl, ofNat_fromLe_leBytes (n := 4) (w := 32) rfl,
    ofNat_fromLe_leBytes (n := 8) (w := 64) rfl]

/-- The header that HDR_ENCODE and STORE_WRITE build (43_store.md R189). -/
def builtHeader (c : Word) (q : DWord) : Header :=
  { magic := 0x45525542#32, version := 1#16, reserved := 0#16, length := 20#32, crc32 := c, seqno := q }

theorem hdrEncode_eq (c : Word) (q : DWord) : hdrEncode c q = (builtHeader c q).layout := rfl

@[simp] theorem hdrEncode_length (c : Word) (q : DWord) : (hdrEncode c q).length = 24 := by
  simp [hdrEncode, le2, le4, le8]

/-- 43_store.md R189: a built header validates to what it was built from. -/
@[simp] theorem validate_hdrEncode (c : Word) (q : DWord) : validate (hdrEncode c q) = some (builtHeader c q) := by
  rw [validate, hdrEncode_eq, parseHeader_layout]
  rfl

/-- Settles O36: `validate_hdrEncode`. -/
theorem builtHeadersValidate : Obligations.BuiltHeadersValidate :=
  fun c q => ⟨rfl, hdrEncode_length c q, validate_hdrEncode c q⟩

/-- HDR_VALIDATE's answer, whether the header is valid or not (43_store.md R188). -/
theorem exec_hdrValidate {s : State} {h : List Byte} (hs : s.seq = .idle) (hl : h.length = 24) :
    exec (.hdrValidate h) s =
      .next { s with
        cs := false, regs := WorkRegs.empty
        response := some { result := 0x00#8, data := validityData (validate h) } } :=
  exec_host_ok (i := .hdrValidate h) hs rfl (beq_iff_eq.2 hl) rfl

/-- Settles O37: neither body does anything but give a value. -/
theorem headerOpsComplete : Obligations.HeaderOpsComplete := by
  intro s c q h hs
  refine ⟨exec_host_ok (i := .hdrEncode c q) hs rfl rfl rfl, fun hl hv => ?_, fun x hl hv => ?_⟩
  · rw [exec_hdrValidate hs hl, hv]
    rfl
  · rw [exec_hdrValidate hs hl, hv]
    rfl

/-! ## Sequence numbers and slots (43_store.md R197, R198, R205) -/

theorem toNat_maxSeq (a b : DWord) : (maxSeq a b).toNat = max a.toNat b.toNat := by
  simp only [maxSeq, BitVec.le_def, Nat.max_def]
  exact apply_ite BitVec.toNat _ _ _

/-- Settles O42: `toNat_maxSeq`, and the sum of words is modulo 2^64. -/
theorem nextSequenceNumber : Obligations.NextSequenceNumber := by
  refine ⟨fun a b => ?_, fun a => rfl, fun b => rfl, rfl⟩
  rw [nextSeq, BitVec.toNat_add, toNat_maxSeq]
  rfl

/-- Settles O43: `≤` of two words compares their values. -/
theorem targetSlot : Obligations.TargetSlot :=
  ⟨fun _ _ => rfl, fun _ => rfl, fun _ => rfl⟩

/-- Settles O44: as O43, with the tie for A. -/
theorem pickedSlot : Obligations.PickedSlot :=
  ⟨fun _ _ => rfl, fun _ => rfl, fun _ => rfl, rfl⟩

/-- Without a wrap a successor is larger. -/
theorem lt_succ_of_ne_zero {q : DWord} (h : q + 1#64 ≠ 0#64) : q < q + 1#64 := by bv_omega

theorem le_maxSeq (a b : DWord) : a ≤ maxSeq a b ∧ b ≤ maxSeq a b := by
  simp only [BitVec.le_def, toNat_maxSeq, le_max_left, le_max_right, and_self]

/-- Without a wrap the next sequence number exceeds every valid one (43_store.md R197, R201). -/
theorem lt_nextSeq {ha hb : Option Header} {h : Header} (hv : ha = some h ∨ hb = some h) (hw : nextSeq ha hb ≠ 0#64) :
    h.seqno < nextSeq ha hb := by
  rcases hv with rfl | rfl
  · cases hb with
    | none => exact lt_succ_of_ne_zero hw
    | some b => exact Nat.lt_of_le_of_lt (le_maxSeq _ _).1 (lt_succ_of_ne_zero hw)
  · cases ha with
    | none => exact lt_succ_of_ne_zero hw
    | some a => exact Nat.lt_of_le_of_lt (le_maxSeq _ _).2 (lt_succ_of_ne_zero hw)

/-- Slot `x` holds the newest header `h` of the two that `hdr` gives: a valid one in the other slot has a smaller
sequence number. -/
structure Newest (hdr : Slot → Option Header) (x : Slot) (h : Header) : Prop where
  valid : hdr x = some h
  older : ∀ g, hdr x.other = some g → g.seqno < h.seqno

/-- A read picks the newest header, a write targets the other slot with the number after it (43_store.md R197, R198,
R205). -/
theorem Newest.chosen {hdr : Slot → Option Header} {x : Slot} {h : Header} (hn : Newest hdr x h) :
    pick (hdr .A) (hdr .B) = some (x, h) ∧ target (hdr .A) (hdr .B) = x.other ∧
      nextSeq (hdr .A) (hdr .B) = h.seqno + 1#64 := by
  obtain ⟨hx, ho⟩ := hn
  cases x with
  | A =>
    rw [hx]
    cases hb : hdr .B with
    | none => exact ⟨rfl, rfl, rfl⟩
    | some b =>
      have hlt : b.seqno < h.seqno := ho b hb
      simp [pick, target, nextSeq, maxSeq, Slot.other, BitVec.not_le.2 hlt, BitVec.le_of_lt hlt]
  | B =>
    rw [hx]
    cases ha : hdr .A with
    | none => exact ⟨rfl, rfl, rfl⟩
    | some a =>
      have hlt : a.seqno < h.seqno := ho a ha
      simp [pick, target, nextSeq, maxSeq, Slot.other, BitVec.not_le.2 hlt, BitVec.le_of_lt hlt]

/-- The headers of the two slots as one function. -/
def bothHeaders (ha hb : Option Header) : Slot → Option Header
  | .A => ha
  | .B => hb

/-- Without a tie the header picked is the newest (43_store.md R205). -/
theorem newest_of_pick {ha hb : Option Header} {w : Slot} {h : Header} (hp : pick ha hb = some (w, h))
    (hne : ∀ a b, ha = some a → hb = some b → a.seqno ≠ b.seqno) : Newest (bothHeaders ha hb) w h := by
  unfold pick at hp
  split at hp
  next a b =>
    split_ifs at hp with hle <;> cases hp
    · have hdiff : h.seqno ≠ b.seqno := hne _ _ rfl rfl
      exact ⟨rfl, fun g hg => by cases hg; bv_omega⟩
    · exact ⟨rfl, fun g hg => by cases hg; exact BitVec.not_le.1 hle⟩
  · cases hp; exact ⟨rfl, nofun⟩
  · cases hp; exact ⟨rfl, nofun⟩
  · cases hp

/-- With a tie both a read and a write take slot A (43_store.md R198, R205). -/
theorem tie_takes_A {a b : Header} (h : a.seqno = b.seqno) :
    pick (some a) (some b) = some (.A, a) ∧ target (some a) (some b) = .A := by
  simp [pick, target, h]

/-- A header with the next sequence number is the newest wherever it stands, unless the number has wrapped (43_store.md
R201, R213). -/
theorem newest_of_next {hdr hdr' : Slot → Option Header} {x : Slot} {n : Header} (hx : hdr' x = some n)
    (ho : hdr' x.other = hdr x.other) (hn : n.seqno = nextSeq (hdr .A) (hdr .B))
    (hw : nextSeq (hdr .A) (hdr .B) ≠ 0#64) : Newest hdr' x n where
  valid := hx
  older g hg := by
    rw [ho] at hg
    rw [hn]
    cases x with
    | A => exact lt_nextSeq (.inr hg) hw
    | B => exact lt_nextSeq (.inl hg) hw

theorem Slot.other_ne (x : Slot) : x ≠ x.other := by cases x <;> decide

/-- Settles O45: the target is the other slot of the newest header, and its new header is the newest after it. -/
theorem writesSpareTheWinner : Obligations.WritesSpareTheWinner := by
  intro ha hb
  refine ⟨fun w h hp => ⟨fun hne => (newest_of_pick hp hne).chosen.2.1, ?_⟩, fun n hn hw => ?_⟩
  · rintro a b rfl rfl htie
    obtain ⟨hpick, htarget⟩ := tie_takes_A htie
    rw [hpick] at hp
    cases hp
    exact ⟨htarget, rfl⟩
  · have newest : Newest (fun y => if target ha hb = y then some n else bothHeaders ha hb y) (target ha hb) n :=
      newest_of_next (hdr := bothHeaders ha hb) (if_pos rfl) (if_neg (Slot.other_ne _)) hn hw
    exact newest.chosen.1

/-! ## A mishap that comes later (log 14) -/

/-- How many bus actions are done at most when the mishap happens: one more for a hang, which passes over the Deselect
that ends a transaction (70_reset_and_hazards.md R278). -/
def Mishap.reach (m : Mishap) : Nat := if m.kind = .hang then m.after + 1 else m.after

theorem Mishap.le_reach_later {m : Mishap} {n k : Nat} (h : n + k ≤ m.reach) : k ≤ (m.later n).reach := by
  have hlater : (m.later n).reach = if m.kind = .hang then m.after - n + 1 else m.after - n := rfl
  unfold Mishap.reach at h
  rw [hlater]
  split_ifs at h ⊢ <;> omega

/-- A transaction that ends before the mishap can happen completes. -/
theorem Mishap.firesIn_of_le_reach {m : Mishap} {len : Nat} (h : len + 2 ≤ m.reach) : m.firesIn len = none := by
  unfold Mishap.reach at h
  unfold Mishap.firesIn
  cases hk : m.kind with
  | hang => rw [if_pos hk] at h; exact if_neg (by omega)
  | powerLoss | busFault => simp only [hk, reduceCtorEq, if_false] at h; exact if_neg (by omega)

/-- No mishap happens within the next `n` bus actions. -/
def State.undisturbed (s : State) (n : Nat) : Prop := ∀ m, s.mishap = some m → n ≤ m.reach

/-- The state with `n` bus actions counted off an armed mishap. -/
def State.passed (s : State) (n : Nat) : State := { s with mishap := s.mishap.map (·.later n) }

theorem undisturbed_of_none {s : State} (hm : s.mishap = none) (n : Nat) : s.undisturbed n := by
  intro m h
  cases hm.symm.trans h

theorem undisturbed_mono {s : State} {n k : Nat} (hk : k ≤ n) (h : s.undisturbed n) : s.undisturbed k :=
  fun m hm => hk.trans (h m hm)

/-- What is undisturbed for `n + k` bus actions is so for `k` when `n` of them are done. -/
theorem undisturbed_later {s t : State} {n k : Nat} (h : s.undisturbed (n + k))
    (ht : t.mishap = s.mishap.map (·.later n)) : t.undisturbed k := by
  intro m hm
  obtain ⟨m', hm', rfl⟩ := Option.map_eq_some_iff.1 (ht.symm.trans hm)
  exact Mishap.le_reach_later (h m' hm')

theorem passed_of_none {s : State} (hm : s.mishap = none) (n : Nat) : s.passed n = s := by
  rw [State.passed, hm, Option.map_none, ← hm]

theorem passed_passed (s : State) (n k : Nat) : (s.passed n).passed k = s.passed (n + k) := by
  simp [State.passed, Mishap.later, Function.comp_def, Nat.sub_sub]

theorem txn_undisturbed {s : State} {f : Frame} (h : s.undisturbed (f.bytes.length + 2)) :
    txn f s = .ok (capturedBytes f (s.dev.incoming s.draws f)) (s.afterTxn f) := by
  rcases txn_cases f s with ⟨hok, -⟩ | ⟨m, done, hm, hf, -⟩
  · exact hok
  · rw [Mishap.firesIn_of_le_reach (h m hm)] at hf
    cases hf

/-- A completed transaction, counted off apart from the rest that it does. -/
theorem afterTxn_eq_passed (s : State) (f : Frame) :
    s.afterTxn f =
      ({ ({ s with mishap := none } : State).afterTxn f with mishap := s.mishap } : State).passed
        (f.bytes.length + 2) := rfl

/-! ## The driver's read and write with a later mishap (40_driver.md R111, R113) -/

theorem memRead_undisturbed {s : State} {addr : Word} {n : Nat} (hr : addr.toNat + n ≤ 0x80000)
    (h : s.undisturbed (4 + n + 2)) :
    memRead addr n s =
      .ok (s.dev.seenBytes s.draws addr.toNat n)
        ((s.afterRead addr n { s.regs with rx := some (s.dev.seenBytes s.draws addr.toNat n) }).passed
          (4 + n + 2)) := by
  have hread : txn (.read (busAddr addr) n) s = _ := txn_undisturbed (by rwa [read_bytes_length])
  rw [captured_read_eq, afterTxn_eq_passed, afterTxn_read rfl, read_bytes_length, busAddr_toNat (by omega)] at hread
  rw [memRead, op_then_ok (checkRange_ok ((rangeOk_iff _ _).2 hr) s), op_bind_ok hread, op_then_ok (setRx_run _ _)]
  exact getRx_some rfl

/-- The device after WREN and then WRITE of `data` at `base` (`apply_wren_write`). -/
def Device.afterWrite (d : Device) (base : Nat) (data : List Byte) : Device :=
  { d with
    array := if d.answers then Memory.writeRange (fun a => !isProtected d.sr a) d.array base data else d.array
    sr := d.srAfterWrite }

/-- The state after a completed driver write of `data` at `addr` (40_driver.md R113). -/
def State.afterWrite (s : State) (addr : Word) (data : List Byte) : State :=
  { s with
    cs := false, seq := (s.seq.advance 3).advance (4 + data.length + 2), draws := s.draws + 1 + (4 + data.length)
    dev := s.dev.afterWrite addr.toNat data
    trace := s.trace ++ [.txn [0x06#8] [], .txn (0x02#8 :: (be3 (busAddr addr) ++ data)) []] }

/-- The two transactions of a driver write (40_driver.md R113). -/
theorem afterTxn_wren_write {s : State} {addr : Word} {data : List Byte} (hr : addr.toNat + data.length ≤ 0x80000) :
    (s.afterTxn .wren).afterTxn (.write (busAddr addr) data) =
      (s.afterWrite addr data).passed (3 + (4 + data.length + 2)) := by
  have hunarmed := (memWrite_ok (s := { s with mishap := none }) ((rangeOk_iff _ _).2 hr) rfl).symm.trans
    (memWrite_explicit rfl hr)
  injection hunarmed with _ hunarmed
  rw [← passed_passed, ← write_bytes_length (busAddr addr)]
  exact congrArg (fun t : State =>
    (({ t with mishap := s.mishap } : State).passed 3).passed
      ((Frame.write (busAddr addr) data).bytes.length + 2)) hunarmed

theorem memWrite_undisturbed {s : State} {addr : Word} {data : List Byte} (hr : addr.toNat + data.length ≤ 0x80000)
    (h : s.undisturbed (3 + (4 + data.length + 2))) :
    memWrite addr data s = .ok () ((s.afterWrite addr data).passed (3 + (4 + data.length + 2))) := by
  have hwren : writeEnable s = .ok () (s.afterTxn .wren) :=
    op_then_ok (txn_undisturbed (f := .wren) (undisturbed_mono (Nat.le_add_right ..) h))
  have hwrite : txn (.write (busAddr addr) data) (s.afterTxn .wren) = _ :=
    txn_undisturbed (by rw [write_bytes_length]; exact undisturbed_later h rfl)
  rw [memWrite, op_then_ok (checkRange_ok ((rangeOk_iff _ _).2 hr) s), op_then_ok hwren, op_then_ok hwrite, op_pure,
    afterTxn_wren_write hr]

/-! ## STORE_WRITE step by step (43_store.md R193 to R200) -/

/-- `ReadHdr` does what its driver read does, and then keeps the bytes and what they validate to (43_store.md R191). -/
theorem readHdr_of_memRead {s t : State} {x : Slot} {l : List Byte}
    (h : memRead (BitVec.ofNat 32 (hdrOff x)) Config.headerSize s = .ok l t) :
    readHdr x s = .ok () { t with regs := WorkRegs.putHdr (WorkRegs.putHbuf t.regs x l) x (validate l) } := by
  cases x with
  | A =>
    rw [readHdr, op_bind_ok h, op_then_ok (setHbufA_run _ _), op_bind_ok (getHbufA_some rfl)]
    exact setHdrA_run _ _
  | B =>
    rw [readHdr, op_bind_ok h, op_then_ok (setHbufB_run _ _), op_bind_ok (getHbufB_some rfl)]
    exact setHdrB_run _ _

theorem readHdr_undisturbed {s : State} (x : Slot) (h : s.undisturbed 30) :
    readHdr x s = .ok () ((s.afterHdr x (s.dev.seenBytes s.draws (hdrOff x) Config.headerSize)).passed 30) := by
  have hread := memRead_undisturbed (addr := BitVec.ofNat 32 (hdrOff x)) (n := Config.headerSize)
    (by cases x <;> decide) h
  rw [show (BitVec.ofNat 32 (hdrOff x)).toNat = hdrOff x by cases x <;> rfl] at hread
  exact readHdr_of_memRead hread

/-- The state after STORE_WRITE's step 1 has made the payload `p` (43_store.md R193). -/
def State.afterPrepare (s : State) (p : List Byte) : State :=
  { s with regs := { s.regs with pay := some p, crc := some (crc32 p) } }

theorem preparePayload_run (r : Bureau) (s : State) :
    preparePayload r s = .ok () (s.afterPrepare (encodeRecord r)) := by
  rw [preparePayload, op_then_ok (codecEncode_run r s), op_bind_ok (getPay_some rfl), op_bind_ok (crcRun_run _ _)]
  exact setCrc_run _ _

/-- The state after STORE_WRITE's steps 3 and 4 have chosen the number `q` and the slot `x` (43_store.md R197, R198). -/
def State.afterChoice (s : State) (q : DWord) (x : Slot) : State :=
  { s with regs := { s.regs with nextSeq := some q, target := some x } }

theorem chooseTarget_run {s : State} {ha hb : Option Header} (hha : s.regs.ha = some ha) (hhb : s.regs.hb = some hb) :
    chooseTarget s = .ok () (s.afterChoice (nextSeq ha hb) (target ha hb)) := by
  rw [chooseTarget, op_bind_ok (getHdrA_some hha), op_bind_ok (getHdrB_some hhb), op_then_ok (setNextSeq_run _ _)]
  exact setTarget_run _ _

/-- The state after the payload `p` has been written to slot `x`, which is then half written (43_store.md R199,
R211). -/
def State.afterPayloadWrite (s : State) (x : Slot) (p : List Byte) : State :=
  (s.afterWrite (BitVec.ofNat 32 (payOff x)) p).setUnfinished x (some
    { header := (s.afterWrite (BitVec.ofNat 32 (payOff x)) p).dev.bytesAt (hdrOff x) Config.headerSize, payload := p })

theorem writePayload_undisturbed {s : State} {x : Slot} {p : List Byte} (hx : s.regs.target = some x)
    (hp : s.regs.pay = some p) (hl : p.length = Config.payloadSize) (h : s.undisturbed 29) :
    writePayload s = .ok () ((s.afterPayloadWrite x p).passed 29) := by
  have hwrite := memWrite_undisturbed (s := s) (addr := BitVec.ofNat 32 (payOff x)) (data := p)
    (by rw [hl]; cases x <;> decide) (by rwa [hl])
  rw [hl] at hwrite
  rw [writePayload, op_bind_ok (getTarget_some hx), op_bind_ok (getPay_some hp), op_then_ok hwrite]
  exact beginHalf_run _ _ _

/-- The state after the header `h` has been written to slot `x`, which finishes it (43_store.md R199, R211). -/
def State.afterHeaderWrite (s : State) (x : Slot) (h : List Byte) : State :=
  (s.afterWrite (BitVec.ofNat 32 (hdrOff x)) h).setUnfinished x none

/-- STORE_WRITE's last step is the driver write of the header it has built (43_store.md R199). -/
theorem writeHeader_eq {s : State} {x : Slot} {c : Word} {q : DWord} (hx : s.regs.target = some x)
    (hc : s.regs.crc = some c) (hq : s.regs.nextSeq = some q) :
    writeHeader s = ((memWrite (BitVec.ofNat 32 (hdrOff x)) (hdrEncode c q)).andThen (endHalf x)) s := by
  rw [writeHeader, op_bind_ok (getTarget_some hx), op_bind_ok (getCrc_some hc), op_bind_ok (getNextSeq_some hq)]

/-- The headers that STORE_WRITE and STORE_READ see, in the two READs that they begin with (43_store.md R191, R195). -/
def State.seenHeader (s : State) : Slot → Option Header
  | .A => validate (s.dev.seenBytes s.draws 0x000 24)
  | .B => validate (s.dev.seenBytes (s.draws + 28) 0x100 24)

/-- Of a device that answers they are its own. -/
theorem seenHeader_answers {s : State} (ha : s.dev.answers = true) : s.seenHeader = s.dev.header := by
  funext x
  cases x <;> exact congrArg validate (Device.seenBytes_answers ha _ _ _)

/-- The state between the two writes of a STORE_WRITE of the payload `p` with the number `q` to slot `x`, 89 bus
actions after its start. -/
def State.halfWritten (s : State) (p : List Byte) (q : DWord) (x : Slot) : State :=
  ((s.afterPrepare p).afterHdrs.afterChoice q x).afterPayloadWrite x p

theorem readHdrs_undisturbed {α : Type} {s : State} (h : s.undisturbed 60) (y : Op α) :
    ((readHdr .A).andThen <| (readHdr .B).andThen y) s = y (s.afterHdrs.passed 60) := by
  rw [op_then_ok (readHdr_undisturbed .A (undisturbed_mono (by decide) h)),
    op_then_ok (readHdr_undisturbed .B (undisturbed_later (n := 30) (k := 30) h rfl)), ← passed_passed _ 30 30]
  rfl

/-- STORE_WRITE up to its header's write, with no mishap before that (43_store.md R193 to R199). -/
theorem storeWrite_undisturbed {s : State} (r : Bureau) (h : s.undisturbed 89) :
    storeWrite r s =
      (writeHeader.andThen getNextSeq)
        ((s.halfWritten (encodeRecord r) (nextSeq (s.seenHeader .A) (s.seenHeader .B))
          (target (s.seenHeader .A) (s.seenHeader .B))).passed 89) := by
  have hhdrs : (s.afterPrepare (encodeRecord r)).undisturbed 60 := undisturbed_mono (by decide) h
  rw [storeWrite, op_then_ok (preparePayload_run r s), readHdrs_undisturbed hhdrs,
    op_then_ok (chooseTarget_run (ha := s.seenHeader .A) (hb := s.seenHeader .B) rfl rfl),
    op_then_ok (writePayload_undisturbed rfl rfl (encodeRecord_length r)
      (undisturbed_later (n := 60) (k := 29) h rfl)), ← passed_passed _ 60 29]
  rfl

theorem afterHeaderWrite_run {s : State} {x : Slot} {c : Word} {q : DWord} (hm : s.mishap = none)
    (hx : s.regs.target = some x) (hc : s.regs.crc = some c) (hq : s.regs.nextSeq = some q) :
    (writeHeader.andThen getNextSeq) s = .ok q (s.afterHeaderWrite x (hdrEncode c q)) := by
  have hwrite := memWrite_undisturbed (s := s) (addr := BitVec.ofNat 32 (hdrOff x)) (data := hdrEncode c q)
    (by rw [hdrEncode_length]; cases x <;> decide) (undisturbed_of_none hm _)
  rw [passed_of_none (by exact hm)] at hwrite
  rw [op_then_ok ((writeHeader_eq hx hc hq).trans ((op_then_ok hwrite).trans (endHalf_run x _)))]
  exact getNextSeq_some hq

/-- STORE_WRITE with no mishap armed (43_store.md R193 to R200). -/
theorem storeWrite_run {s : State} (r : Bureau) (hm : s.mishap = none) {q : DWord} {x : Slot}
    (hq : nextSeq (s.seenHeader .A) (s.seenHeader .B) = q) (hx : target (s.seenHeader .A) (s.seenHeader .B) = x) :
    storeWrite r s =
      .ok q ((s.halfWritten (encodeRecord r) q x).afterHeaderWrite x (hdrEncode (crc32 (encodeRecord r)) q)) := by
  rw [storeWrite_undisturbed r (undisturbed_of_none hm _), hq, hx, passed_of_none (by exact hm)]
  exact afterHeaderWrite_run (by exact hm) rfl rfl rfl

/-! ## The device after a STORE_WRITE -/

theorem bp_clear (x : Byte) : bp (x &&& 0xFD#8) = bp x := by revert x; decide

/-- A write leaves the protection as it was: only WEL changes in SR. -/
theorem isProtected_srAfterWrite (d : Device) : isProtected d.srAfterWrite = isProtected d.sr := by
  unfold Device.srAfterWrite
  split_ifs
  · funext a
    rw [isProtected, bp_clear, isProtected]
  · exact isProtected_set d.sr
  · rfl

theorem bp_srAfterWrite (d : Device) : bp d.srAfterWrite = bp d.sr := by
  unfold Device.srAfterWrite
  split_ifs
  · exact bp_clear d.sr
  · exact bp_set d.sr
  · rfl

theorem landsAt_afterWrite (d : Device) (base : Nat) (l : List Byte) : (d.afterWrite base l).landsAt = d.landsAt := by
  funext b n a
  exact congrArg (fun p : Nat → Bool => d.answers && decide (b ≤ a) && decide (a < b + n) && !p a)
    (isProtected_srAfterWrite d)

/-- A second write leaves SR as the first does. -/
theorem srAfterWrite_afterWrite (d : Device) (base : Nat) (l : List Byte) :
    (d.afterWrite base l).srAfterWrite = d.srAfterWrite := by
  cases ha : d.answers <;> cases hc : d.params.welAutoClear <;>
    simp [Device.srAfterWrite, ha, hc, Device.afterWrite, BitVec.and_assoc, BitVec.or_assoc]

theorem read_afterWrite (d : Device) (base : Nat) (l : List Byte) (a : Nat) :
    Memory.read (d.afterWrite base l).array a =
      if d.landsAt base l.length a = true then l.getD (a - base) 0#8 else Memory.read d.array a :=
  read_written d base l a

/-- The device after the payload and then the header have been written to slot `x` (43_store.md R199). -/
def Device.afterStore (d : Device) (x : Slot) (pay hdr : List Byte) : Device :=
  (d.afterWrite (payOff x) pay).afterWrite (hdrOff x) hdr

/-! ## STORE_WRITE and STORE_READ as instructions -/

/-- The next state of STORE_WRITE, from the number and the slot it chooses (43_store.md R200). -/
theorem exec_storeWrite_run {s : State} (r : Bureau) (hs : s.ready) {q : DWord} {x : Slot}
    (hq : nextSeq (s.seenHeader .A) (s.seenHeader .B) = q) (hx : target (s.seenHeader .A) (s.seenHeader .B) = x) :
    exec (.storeWrite r) s =
      .next { ((s.accept (.storeWrite r)).halfWritten (encodeRecord r) q x).afterHeaderWrite x
          (hdrEncode (crc32 (encodeRecord r)) q) with
        cs := false, seq := s.seq, response := some { result := 0x00#8, data := .seqno q } } :=
  exec_host_ok (i := .storeWrite r) hs.1 rfl rfl
    (op_bind_ok (storeWrite_run (s := s.accept (.storeWrite r)) r hs.2 hq hx))

/-- The address bytes of a slot's header and payload (20_memory.md R52; 30_encoding.md R84). -/
theorem be3_hdrOff (x : Slot) :
    be3 (busAddr (BitVec.ofNat 32 (hdrOff x))) = [0x00#8, if x = .A then 0x00#8 else 0x01#8, 0x00#8] := by
  cases x <;> rfl

theorem be3_payOff (x : Slot) :
    be3 (busAddr (BitVec.ofNat 32 (payOff x))) = [0x00#8, if x = .A then 0x00#8 else 0x01#8, 0x18#8] := by
  cases x <;> rfl

/-- What the trace shows of the two header READs, which a STORE_WRITE and a STORE_READ begin with. -/
theorem afterHdrs_trace (s : State) :
    s.afterHdrs.trace = s.trace ++
      [.txn ([0x03#8, 0x00#8, 0x00#8, 0x00#8] ++ zeros 24) (s.dev.seenBytes s.draws 0x000 24),
       .txn ([0x03#8, 0x00#8, 0x01#8, 0x00#8] ++ zeros 24) (s.dev.seenBytes (s.draws + 28) 0x100 24)] :=
  List.append_assoc ..

/-- What the trace shows of a driver write (40_driver.md R113). -/
def driverWriteEvents (a : Nat) (l : List Byte) : List BusEvent :=
  [.txn [0x06#8] [], .txn (0x02#8 :: (be3 (busAddr (BitVec.ofNat 32 a)) ++ l)) []]

/-- A STORE_WRITE changes the array and, by its last WRITE, WEL. -/
theorem afterStore_eq (d : Device) (x : Slot) (p h : List Byte) :
    d.afterStore x p h = { d with array := (d.afterStore x p h).array, sr := d.srAfterWrite } := by
  rw [← srAfterWrite_afterWrite d (payOff x) p]
  rfl

/-- The state after a STORE_WRITE with no mishap armed, field by field: the payload `p` and the header `h`, of their
lengths, are written to slot `x` with the number `q`. -/
theorem storeWritten_explicit (s : State) {p h : List Byte} (hp : p.length = 20)
    (hh : h.length = 24) (q : DWord) (x : Slot) :
    ∃ seq : Seq, (s.halfWritten p q x).afterHeaderWrite x h =
      { s with
        cs := false
        seq := seq
        regs := (((s.afterPrepare p).afterHdrs).afterChoice q x).regs
        draws := s.draws + 110
        dev := s.dev.afterStore x p h
        trace := s.trace ++
            [.txn ([0x03#8, 0x00#8, 0x00#8, 0x00#8] ++ zeros 24) (s.dev.seenBytes s.draws 0x000 24),
             .txn ([0x03#8, 0x00#8, 0x01#8, 0x00#8] ++ zeros 24) (s.dev.seenBytes (s.draws + 28) 0x100 24),
             .txn [0x06#8] [],
             .txn ([0x02#8, 0x00#8, if x = .A then 0x00#8 else 0x01#8, 0x18#8] ++ p) [],
             .txn [0x06#8] [],
             .txn ([0x02#8, 0x00#8, if x = .A then 0x00#8 else 0x01#8, 0x00#8] ++ h) []]
        unfinishedA := if x = .A then none else s.unfinishedA
        unfinishedB := if x = .B then none else s.unfinishedB } := by
  refine ⟨((s.halfWritten p q x).afterHeaderWrite x h).seq,
    (State.mk.injEq ..).mpr ⟨rfl, rfl, rfl, rfl, rfl, rfl, ?_, ?_, rfl, ?_, rfl, ?_, ?_⟩⟩
  · cases x <;> rfl
  · show s.draws + 28 + 28 + 1 + (4 + p.length) + 1 + (4 + h.length) = s.draws + 110
    rw [hp, hh]
  · show (s.afterPrepare p).afterHdrs.trace ++ driverWriteEvents (payOff x) p ++ driverWriteEvents (hdrOff x) h = _
    rw [afterHdrs_trace, driverWriteEvents, driverWriteEvents, be3_payOff, be3_hdrOff, List.append_assoc,
      List.append_assoc]
    rfl
  · cases x <;> rfl
  · cases x <;> rfl

/-- Settles O46: `exec_storeWrite_run`, its state written out, and two writes in what the array then reads as. -/
theorem storeWriteSendsSixTransactions : Obligations.StoreWriteSendsSixTransactions := by
  intro s r hs bytesA bytesB slot seq pay hdr
  have hpay : pay.length = 20 := encodeRecord_length r
  have hhdr : hdr.length = 24 := hdrEncode_length _ _
  refine ⟨(s.dev.afterStore slot pay hdr).array, ?_, fun a => ?_⟩
  · obtain ⟨q, hwritten⟩ := storeWritten_explicit (s.accept (.storeWrite r)) hpay hhdr seq slot
    rw [← afterStore_eq, exec_storeWrite_run r hs (q := seq) (x := slot) rfl rfl, hwritten]
    rfl
  · rw [Device.afterStore, read_afterWrite, read_afterWrite, landsAt_afterWrite, hpay, hhdr]

theorem readPick_none {ha hb : Option Header} (hp : pick ha hb = none) : readPick ha hb = raise .notFound := by
  simp only [readPick, hp]

/-- The state after STORE_READ has read the payload bytes `l` of the picked slot `x` (43_store.md R205, R207). -/
def State.afterPickedRead (s : State) (x : Slot) (l : List Byte) : State :=
  ({ s.afterHdrs with regs := { s.afterHdrs.regs with pick := some x } } : State).afterPayload x l

/-- STORE_READ of a picked slot whose payload has the checksum in its header (43_store.md R207, R208). -/
theorem storeRead_ok {s : State} (hm : s.mishap = none) {x : Slot} {h : Header}
    (hp : pick (s.seenHeader .A) (s.seenHeader .B) = some (x, h)) {l : List Byte}
    (hl : s.dev.seenBytes (s.draws + 56) (payOff x) 20 = l) (hc : crc32 l = h.crc32) :
    storeRead s = .ok (.record (decodeRecord l) h.seqno) (s.afterPickedRead x l) := by
  subst hl
  have hrun : storeRead s = readPick (s.seenHeader .A) (s.seenHeader .B) s.afterHdrs := storeRead_run hm
  have hread : readPayload h { s.afterHdrs with regs := { s.afterHdrs.regs with pick := some x } } =
      .ok () (s.afterPickedRead x _) := (readPayload_run (by exact hm) rfl h).trans (if_pos hc)
  rw [hrun, readPick_picked hp, readPicked, op_then_ok (setPick_run x _), op_then_ok (recheck_picked hp _),
    op_then_ok hread, op_bind_ok (getPay_some rfl), op_bind_ok (codecDecode_run _ _)]
  rfl

/-- That state, field by field. -/
theorem afterPickedRead_explicit {s : State} {x : Slot} {l : List Byte}
    (hl : s.dev.seenBytes (s.draws + 56) (payOff x) 20 = l) :
    ∃ q : Seq, s.afterPickedRead x l =
      { s with
        cs := false
        seq := q
        regs := { s.afterHdrs.regs with pick := some x, rx := some l, pay := some l, crc := some (crc32 l) }
        draws := s.draws + 80
        trace := s.afterHdrs.trace ++
          [.txn ([0x03#8, 0x00#8, if x = .A then 0x00#8 else 0x01#8, 0x18#8] ++ zeros 20) l] } := by
  refine ⟨(s.afterPickedRead x l).seq,
    (State.mk.injEq ..).mpr ⟨rfl, rfl, rfl, rfl, rfl, rfl, rfl, rfl, rfl, ?_, rfl, rfl, rfl⟩⟩
  subst hl
  cases x <;> rfl

/-- STORE_READ's answer when a slot is picked (43_store.md R207, R208). -/
theorem exec_storeRead_picked {s : State} (hs : s.ready) {x : Slot} {h : Header}
    (hp : pick (s.seenHeader .A) (s.seenHeader .B) = some (x, h)) {l : List Byte}
    (hl : s.dev.seenBytes (s.draws + 56) (payOff x) 20 = l) :
    exec .storeRead s =
      .next { (s.accept .storeRead).afterPickedRead x l with
        cs := false, seq := s.seq
        response := some
          (if crc32 l = h.crc32 then { result := 0x00#8, data := .record (decodeRecord l) h.seqno }
           else { result := 0x03#8, data := .empty }) } := by
  obtain ⟨hidle, hm⟩ := hs
  by_cases hc : crc32 l = h.crc32
  · rw [if_pos hc]
    exact exec_host_ok (i := .storeRead) hidle rfl rfl (storeRead_ok (s := s.accept .storeRead) hm hp hl hc)
  · rw [if_neg hc]
    subst hl
    exact exec_host_raised (i := .storeRead) hidle rfl rfl (storeRead_integrity (s := s.accept .storeRead) hm hp hc)

/-- Settles O48: NOT_FOUND is raised right after the two header READs, a picked slot's payload is read and checked. -/
theorem storeReadAnswersThePickedSlot : Obligations.StoreReadAnswersThePickedSlot := by
  intro s hs bytesA bytesB headers regs
  refine ⟨fun hp => ?_, fun slot h hp => ?_⟩
  · have hbody : hostBody .storeRead (s.accept .storeRead) =
        .stop (.raised .notFound) (s.accept .storeRead).afterHdrs :=
      (storeRead_run (s := s.accept .storeRead) hs.2).trans (congrFun (readPick_none hp) _)
    rw [exec_host_raised (i := .storeRead) hs.1 rfl rfl hbody, ← afterHdrs_trace]
    rfl
  · intro pay
    obtain ⟨q, hread⟩ := afterPickedRead_explicit (s := s.accept .storeRead) (x := slot) (l := pay) rfl
    rw [exec_storeRead_picked hs hp rfl, hread, ← afterHdrs_trace]
    rfl

/-! ## The bytes of the slots (20_memory.md R52) -/

/-- Where the header and the payload of a slot lie, in the lower half of the array and apart from the other slot. -/
theorem slot_map (x : Slot) :
    payOff x = hdrOff x + 24 ∧ hdrOff x + 44 ≤ 0x40000 ∧
      (hdrOff x + 44 ≤ hdrOff x.other ∨ hdrOff x.other + 44 ≤ hdrOff x) := by
  cases x <;> decide

/-- A level other than All leaves the lower half of the array unprotected (10_state.md R34). -/
theorem unprotected_lower {sr : Byte} (h : bp sr ≠ 0b11#2) {a : Nat} (ha : a < 0x40000) : isProtected sr a = false := by
  have hlevel : levelOf (bp sr) ≠ .all := by
    revert h
    generalize bp sr = b
    revert b
    decide
  unfold isProtected
  cases hl : levelOf (bp sr) with
  | none => rfl
  | upperQuarter => exact decide_eq_false (by omega)
  | upperHalf => exact decide_eq_false (by omega)
  | all => exact absurd hl hlevel

/-- Bytes outside the range of a write are as they were. -/
theorem bytesAt_afterWrite_apart {base : Nat} {l : List Byte} {a n : Nat} (h : a + n ≤ base ∨ base + l.length ≤ a)
    (d : Device) : (d.afterWrite base l).bytesAt a n = d.bytesAt a n := by
  refine Memory.readRange_congr fun b hb hb' => ?_
  rw [read_afterWrite, if_neg]
  simp only [Device.landsAt, Bool.and_eq_true, decide_eq_true_eq]
  omega

/-- Bytes written in the lower half of the array land, where the device takes them (43_store.md R201). -/
theorem bytesAt_afterWrite {d : Device} (hd : d.slotsWritable) {base : Nat} {l : List Byte}
    (h : base + l.length ≤ 0x40000) : (d.afterWrite base l).bytesAt base l.length = l := by
  refine Memory.readRange_eq fun b hb hb' => ?_
  obtain ⟨hans, hbp⟩ := hd
  have hfree : isProtected d.sr b = false := unprotected_lower hbp (by omega)
  rw [read_afterWrite, if_pos]
  simp [Device.landsAt, hans, hfree, hb, hb']

theorem slotsWritable_afterWrite {d : Device} (hd : d.slotsWritable) (base : Nat) (l : List Byte) :
    (d.afterWrite base l).slotsWritable :=
  ⟨hd.1, by rw [Device.afterWrite, bp_srAfterWrite]; exact hd.2⟩

/-- Ranges that meet, read together. -/
theorem bytesAt_append (d : Device) (a n k : Nat) : d.bytesAt a n ++ d.bytesAt (a + n) k = d.bytesAt a (n + k) := by
  induction n generalizing a with
  | zero => simp [Device.bytesAt, Memory.readRange]
  | succ n ih =>
    rw [Nat.succ_add]
    simp only [Device.bytesAt, Memory.readRange, List.cons_append] at ih ⊢
    rw [← ih (a + 1), show a + (n + 1) = a + 1 + n by omega]

/-- What a completed STORE_WRITE of `r` with the number `q` makes of slot `x`, and what it leaves of the other. -/
structure Stored (s t : State) (r : Bureau) (q : DWord) (x : Slot) : Prop where
  ready : t.ready
  writable : t.dev.slotsWritable
  response : t.response = some { result := 0x00#8, data := .seqno q }
  header : t.dev.bytesAt (hdrOff x) 24 = hdrEncode (crc32 (encodeRecord r)) q
  payload : t.dev.payload x = encodeRecord r
  finished : t.unfinished x = none
  otherBytes : ∀ a n, hdrOff x.other ≤ a → a + n ≤ hdrOff x.other + 44 → t.dev.bytesAt a n = s.dev.bytesAt a n
  otherUnfinished : t.unfinished x.other = s.unfinished x.other

/-- A STORE_WRITE that the device takes completes, and has stored its record (R201). -/
theorem exec_storeWrite_stored {s : State} (r : Bureau) (hs : s.ready) (hd : s.dev.slotsWritable) {q : DWord} {x : Slot}
    (hq : nextSeq (s.dev.header .A) (s.dev.header .B) = q) (hx : target (s.dev.header .A) (s.dev.header .B) = x) :
    ∃ t, exec (.storeWrite r) s = .next t ∧ Stored s t r q x := by
  obtain ⟨hpay, hlow, hapart⟩ := slot_map x
  have hlp : (encodeRecord r).length = 20 := encodeRecord_length r
  have hlh : (hdrEncode (crc32 (encodeRecord r)) q).length = 24 := hdrEncode_length ..
  rw [← seenHeader_answers hd.1] at hq hx
  obtain ⟨sq, hwritten⟩ := storeWritten_explicit (s.accept (.storeWrite r)) hlp hlh q x
  have hrun := exec_storeWrite_run r hs hq hx
  rw [hwritten] at hrun
  refine ⟨_, hrun, ⟨hs, ?_, rfl, ?_, ?_, ?_, fun a n ha hn => ?_, ?_⟩⟩
  · exact slotsWritable_afterWrite (slotsWritable_afterWrite hd _ _) _ _
  · have hwrite := bytesAt_afterWrite (slotsWritable_afterWrite hd (payOff x) (encodeRecord r)) (base := hdrOff x)
      (l := hdrEncode (crc32 (encodeRecord r)) q) (by omega)
    rwa [hlh] at hwrite
  · have hwrite := bytesAt_afterWrite hd (base := payOff x) (l := encodeRecord r) (by omega)
    rw [hlp] at hwrite
    exact (bytesAt_afterWrite_apart (.inr (by omega)) _).trans hwrite
  · cases x <;> rfl
  · exact (bytesAt_afterWrite_apart (by omega) _).trans (bytesAt_afterWrite_apart (by omega) _)
  · cases x <;> rfl

/-! ## A stored record, and reading it back (43_store.md R201, R209, R211) -/

section

variable {s t : State} {r : Bureau} {q : DWord} {x : Slot}

theorem Stored.valid (h : Stored s t r q x) : t.dev.header x = some (builtHeader (crc32 (encodeRecord r)) q) :=
  (congrArg validate h.header).trans (validate_hdrEncode _ _)

theorem Stored.slotState (h : Stored s t r q x) : t.slotState x = .written q true := by
  rw [slotState_finished h.finished, Device.slotState, h.valid, h.payload]
  exact congrArg (SlotState.written q) (beq_self_eq_true (crc32 (encodeRecord r)))

theorem Stored.otherHeader (h : Stored s t r q x) : t.dev.header x.other = s.dev.header x.other :=
  congrArg validate (h.otherBytes _ _ le_rfl (Nat.add_le_add_left (by decide) _))

theorem Stored.otherState (h : Stored s t r q x) : t.slotState x.other = s.slotState x.other := by
  obtain ⟨hpay, -, -⟩ := slot_map x.other
  exact slotState_congr h.otherUnfinished (h.otherBytes _ _ le_rfl (Nat.add_le_add_left (by decide) _))
    (h.otherBytes _ _ (by omega) (by rw [hpay, Nat.add_assoc]; exact Nat.add_le_add_left (by decide) _))

/-- Unless its number has wrapped, the header just written is the newest. -/
theorem Stored.newest (h : Stored s t r q x) (hq : nextSeq (s.dev.header .A) (s.dev.header .B) = q) (hw : q ≠ 0#64) :
    Newest t.dev.header x (builtHeader (crc32 (encodeRecord r)) q) :=
  newest_of_next h.valid h.otherHeader hq.symm (hq ▸ hw)

end

/-- Settles O47: `exec_storeWrite_stored`, and no valid number reaches the next one. -/
theorem storeWriteFillsTheTargetSlot : Obligations.StoreWriteFillsTheTargetSlot := by
  intro s r hs hd slot seq
  obtain ⟨t, hexec, hst⟩ := exec_storeWrite_stored r hs hd (q := seq) (x := slot) rfl rfl
  obtain ⟨hpay, -, -⟩ := slot_map slot
  refine ⟨t, hexec, hst.response, ?_, hst.slotState, hst.otherBytes _ _ le_rfl le_rfl, hst.otherState,
    fun hw x h hx => ?_⟩
  · rw [← bytesAt_append _ _ 24 20, ← hpay, hst.header]
    exact congrArg _ hst.payload
  · cases x with
    | A => exact lt_nextSeq (.inl hx) hw
    | B => exact lt_nextSeq (.inr hx) hw

/-- STORE_READ answers the record under the newest header, where its checksum is right (43_store.md R209). -/
theorem exec_storeRead_newest {s : State} (hs : s.ready) (ha : s.dev.answers = true) {x : Slot} {h : Header}
    (hn : Newest s.dev.header x h) (hc : crc32 (s.dev.payload x) = h.crc32) :
    ∃ u, exec .storeRead s = .next u ∧
      u.response = some { result := 0x00#8, data := .record (decodeRecord (s.dev.payload x)) h.seqno } := by
  obtain ⟨hpick, -, -⟩ := hn.chosen
  rw [← seenHeader_answers ha] at hpick
  have hread := exec_storeRead_picked hs hpick (Device.seenBytes_answers ha _ _ _)
  exact ⟨_, hread, congrArg some (if_pos hc)⟩

/-- A STORE_READ after a STORE_WRITE whose number has not wrapped answers its record. -/
theorem Stored.read {s t : State} {r : Bureau} {q : DWord} {x : Slot} (h : Stored s t r q x)
    (hn : Newest t.dev.header x (builtHeader (crc32 (encodeRecord r)) q)) :
    ∃ u, exec .storeRead t = .next u ∧ u.response = some { result := 0x00#8, data := .record r q } := by
  have hread := exec_storeRead_newest h.ready h.writable.1 hn (congrArg crc32 h.payload)
  rwa [h.payload, decodeRecord_encodeRecord] at hread

/-- Settles O51: the header that the write has stored is the newest, so the read takes its slot. -/
theorem writeThenReadReturnsTheRecord : Obligations.WriteThenReadReturnsTheRecord := by
  intro s r hs hd hw
  obtain ⟨t, hexec, hst⟩ := exec_storeWrite_stored r hs hd rfl rfl
  obtain ⟨u, hread, hanswer⟩ := hst.read (hst.newest rfl hw)
  exact ⟨t, u, hexec, hread, hanswer⟩

/-! ## Writes on an empty store (43_store.md R212) -/

/-- One more STORE_WRITE after others. -/
theorem storeWrites_concat {rs : List Bureau} {r : Bureau} {s t u : State} (h : storeWrites rs s = .next t)
    (hr : exec (.storeWrite r) t = .next u) : storeWrites (rs ++ [r]) s = .next u := by
  induction rs generalizing s with
  | nil =>
    cases h
    simp only [List.nil_append, storeWrites, hr]
  | cons r' rs ih =>
    simp only [List.cons_append, storeWrites] at h ⊢
    cases hr' : exec (.storeWrite r') s with
    | next t' =>
      rw [hr'] at h
      exact ih h
    | fault f => rw [hr'] at h; cases h
    | refused p => rw [hr'] at h; cases h

theorem slotOfWrite_other (k : Nat) : (slotOfWrite k).other = slotOfWrite (k + 1) := by
  unfold slotOfWrite
  rcases Nat.mod_two_eq_zero_or_one k with h | h
  · rw [if_neg (by omega), if_pos (by omega)]
    rfl
  · rw [if_pos h, if_neg (by omega)]
    rfl

theorem Slot.other_other (x : Slot) : x.other.other = x := by cases x <;> rfl

/-- `t` is a state after `n + 1` STORE_WRITEs on the empty store of `s`, the last one of `r`. -/
structure Alternated (s t : State) (r : Bureau) (n : Nat) : Prop where
  stored : ∃ u, Stored u t r (BitVec.ofNat 64 (n + 1)) (slotOfWrite (n + 1))
  newest : Newest t.dev.header (slotOfWrite (n + 1)) (builtHeader (crc32 (encodeRecord r)) (BitVec.ofNat 64 (n + 1)))
  previous : 1 ≤ n → t.slotState (slotOfWrite n) = .written (BitVec.ofNat 64 n) true
  first : n = 0 → t.dev.header .B = none ∧ t.slotState .B = s.slotState .B

/-- The first write takes slot A and the number 1 (43_store.md R197, R198). -/
theorem alternated_first {s : State} (r : Bureau) (hs : s.ready) (hd : s.dev.slotsWritable)
    (hA : s.dev.header .A = none) (hB : s.dev.header .B = none) :
    ∃ t, exec (.storeWrite r) s = .next t ∧ Alternated s t r 0 := by
  have hq : nextSeq (s.dev.header .A) (s.dev.header .B) = 1#64 := by rw [hA, hB]; rfl
  have hx : target (s.dev.header .A) (s.dev.header .B) = .A := by rw [hA]; rfl
  obtain ⟨t, hexec, hst⟩ := exec_storeWrite_stored r hs hd hq hx
  exact ⟨t, hexec, ⟨s, hst⟩, hst.newest hq (by decide), fun h => absurd h (by decide),
    fun _ => ⟨hst.otherHeader.trans hB, hst.otherState⟩⟩

/-- The write after n + 1 others takes the other slot and the number n + 2, unless that wraps. -/
theorem alternated_next {s t : State} {r : Bureau} {n : Nat} (h : Alternated s t r n) (hn : n + 2 < 2 ^ 64)
    (r' : Bureau) :
    ∃ u, exec (.storeWrite r') t = .next u ∧ Alternated s u r' (n + 1) := by
  obtain ⟨_, hst⟩ := h.stored
  obtain ⟨-, htarget, hnext⟩ := h.newest.chosen
  rw [slotOfWrite_other] at htarget
  have hq : nextSeq (t.dev.header .A) (t.dev.header .B) = BitVec.ofNat 64 (n + 1 + 1) :=
    hnext.trans (BitVec.ofNat_add ..).symm
  have hw : BitVec.ofNat 64 (n + 1 + 1) ≠ 0#64 := by
    intro h0
    have := congrArg BitVec.toNat h0
    simp at this
    omega
  obtain ⟨u, hexec, hst'⟩ := exec_storeWrite_stored r' hst.ready hst.writable hq htarget
  refine ⟨u, hexec, ⟨t, hst'⟩, hst'.newest hq hw, fun _ => ?_, nofun⟩
  have hother := hst'.otherState
  rw [← slotOfWrite_other, Slot.other_other] at hother
  exact hother.trans hst.slotState

/-- All the writes, one after another. -/
theorem storeWrites_alternated {s : State} (hs : s.ready) (hd : s.dev.slotsWritable) (hA : s.dev.header .A = none)
    (hB : s.dev.header .B = none) (rs : List Bureau) (r : Bureau) (hn : rs.length + 1 < 2 ^ 64) :
    ∃ t, storeWrites (rs ++ [r]) s = .next t ∧ Alternated s t r rs.length := by
  induction rs using List.reverseRecOn generalizing r with
  | nil =>
    obtain ⟨t, hexec, halt⟩ := alternated_first r hs hd hA hB
    exact ⟨t, storeWrites_concat (rs := []) rfl hexec, halt⟩
  | append_singleton rs r' ih =>
    rw [List.length_append, List.length_singleton] at hn ⊢
    obtain ⟨t, hwrites, halt⟩ := ih r' (by omega)
    obtain ⟨u, hexec, halt'⟩ := alternated_next halt hn r
    exact ⟨u, storeWrites_concat hwrites hexec, halt'⟩

/-- Settles O52, by induction on the writes. -/
theorem writesFromAnEmptyStore : Obligations.WritesFromAnEmptyStore := by
  intro s rs r hs hd hA hB hn
  obtain ⟨t, hwrites, halt⟩ := storeWrites_alternated hs hd hA hB rs r hn
  obtain ⟨_, hst⟩ := halt.stored
  obtain ⟨u, hread, hanswer⟩ := hst.read halt.newest
  exact ⟨t, u, hwrites, hst.slotState, halt.previous, halt.first, hst.response, hread, hanswer⟩

/-! ## A STORE_WRITE that stops between its two writes (43_store.md R211, 70_reset_and_hazards.md R273, R278) -/

/-- How a body that a mishap stops leaves the machine, where it has changed neither the array nor what is recorded of an
unfinished write: Idle, or Busy with one more bus action after a hang. -/
structure StoppedBy (m : Mishap) (s t : State) : Prop where
  array : t.dev.array = s.dev.array
  unfinished : t.unfinished = s.unfinished
  seq : t.seq = if m.kind = .hang then s.seq.advance 1 else .idle

theorem unfinished_cutTxn (s : State) (f : Frame) (n : Nat) : (s.cutTxn f n).unfinished = s.unfinished := by
  unfold State.cutTxn
  split_ifs <;> rfl

theorem unfinished_struck (s : State) (kind : MishapKind) : (s.struck kind).unfinished = s.unfinished := by
  cases kind <;> rfl

theorem seq_struck_of_cut (s : State) {kind : MishapKind} (hk : kind ≠ .hang) : (s.struck kind).seq = .idle :=
  (struck_cutShort (s := s) hk (List.append_nil _).symm).seq

/-- A hang at the one byte exchange of WREN, or due before it (R278). -/
theorem txn_wren_hang {s : State} {m : Mishap} (hm : s.mishap = some m) (hk : m.kind = .hang) (h : m.after ≤ 1) :
    txn .wren s = .stop .abandoned ((s.cutTxn .wren 1).struck m.kind) := by
  have hfires : m.firesIn Frame.wren.bytes.length = some 1 := by
    simp only [Mishap.firesIn, hk]
    exact (if_pos h).trans (congrArg some (max_eq_right h))
  simp only [txn, hm, hfires]

/-- A driver write that stops before the Select of its WRITE changes nothing in the array. -/
theorem memWrite_stopped {s : State} {m : Mishap} {addr : Word} {data : List Byte}
    (hr : addr.toNat + data.length ≤ 0x80000) (hm : s.mishap = some m) (hcut : m.kind ≠ .hang → m.after ≤ 3)
    (hhang : m.kind = .hang → m.after ≤ 1) :
    ∃ t, memWrite addr data s = .stop .abandoned t ∧ StoppedBy m s t := by
  by_cases hk : m.kind = .hang
  · have hwren : writeEnable s = .stop .abandoned ((s.cutTxn .wren 1).struck m.kind) :=
      op_then_stop (txn_wren_hang hm hk (hhang hk))
    refine ⟨_, (op_then_ok (checkRange_ok ((rangeOk_iff _ _).2 hr) s)).trans (op_then_stop hwren), ?_, ?_, ?_⟩
    · rw [struck_array, cutTxn_array (by decide)]
    · rw [unfinished_struck, unfinished_cutTxn]
    · rw [hk]
      rfl
  · rcases Nat.lt_or_ge m.after 3 with h | h
    · refine ⟨_, memWrite_cut_wren hr hm hk h, ?_, ?_, ?_⟩
      · rw [struck_array, cutTxn_array (by decide)]
      · rw [unfinished_struck, unfinished_cutTxn]
      · rw [seq_struck_of_cut _ hk, if_neg hk]
    · have hlast : m.after - 3 = 0 := by have := hcut hk; omega
      refine ⟨_, memWrite_cut_write hr hm hk h (by omega), ?_, ?_, ?_⟩
      · rw [struck_array, hlast]
        exact apply_array (f := .wren) (by decide) s.dev s.wp
      · rw [unfinished_struck, unfinished_cutTxn]
        rfl
      · rw [seq_struck_of_cut _ hk, if_neg hk]

/-- Between its two writes a STORE_WRITE of the payload `p` has its target slot `x` transient; the old header and the
other slot are as they were (R211). -/
structure HalfWritten (s t : State) (p : List Byte) (x : Slot) : Prop where
  transient : t.slotState x = .transient
  header : t.dev.bytesAt (hdrOff x) 24 = s.dev.bytesAt (hdrOff x) 24
  payload : t.dev.payload x = p
  otherBytes : t.dev.bytesAt (hdrOff x.other) 44 = s.dev.bytesAt (hdrOff x.other) 44
  otherState : t.slotState x.other = s.slotState x.other

theorem halfWritten_spec {s : State} (hd : s.dev.slotsWritable) {p : List Byte} (hp : p.length = 20) (q : DWord)
    (x : Slot) : HalfWritten s (s.halfWritten p q x) p x := by
  obtain ⟨hpay, hlow, hapart⟩ := slot_map x
  obtain ⟨hpay', -, -⟩ := slot_map x.other
  have hdev : (s.halfWritten p q x).dev = s.dev.afterWrite (payOff x) p := by cases x <;> rfl
  have keeps (a n : Nat) (h : a + n ≤ payOff x ∨ payOff x + 20 ≤ a) :
      (s.halfWritten p q x).dev.bytesAt a n = s.dev.bytesAt a n := by
    rw [hdev]
    exact bytesAt_afterWrite_apart (by rwa [hp]) _
  have payload : (s.halfWritten p q x).dev.payload x = p := by
    have hwrite := bytesAt_afterWrite hd (base := payOff x) (l := p) (by omega)
    rw [hp] at hwrite
    rwa [hdev]
  have unfinished : (s.halfWritten p q x).unfinished x =
      some { header := (s.halfWritten p q x).dev.bytesAt (hdrOff x) 24, payload := p } := by cases x <;> rfl
  refine ⟨slotState_transient.2 ⟨_, unfinished, rfl, payload⟩, keeps _ _ (by omega), payload, keeps _ _ (by omega), ?_⟩
  refine slotState_congr (by cases x <;> rfl) (keeps _ _ ?_) (keeps _ _ ?_)
  · rw [Config.headerSize]
    omega
  · rw [Config.payloadSize]
    omega

/-- What stops there leaves the slots so. -/
theorem HalfWritten.stopped {s t u : State} {m : Mishap} {p : List Byte} {x : Slot} (h : HalfWritten s t p x)
    (ht : StoppedBy m t u) : HalfWritten s u p x := by
  have hbytes : u.dev.bytesAt = t.dev.bytesAt := by
    unfold Device.bytesAt
    rw [ht.array]
  have hstate (y : Slot) : u.slotState y = t.slotState y := slotState_of_array ht.array (congrFun ht.unfinished y)
  exact ⟨(hstate x).trans h.transient, by rw [hbytes, h.header], by rw [Device.payload, hbytes]; exact h.payload,
    by rw [hbytes, h.otherBytes], (hstate _).trans h.otherState⟩

/-- A STORE_WRITE that stops after its payload's write and before its header's. -/
theorem storeWrite_stopped {s : State} {r : Bureau} {m : Mishap} {q : DWord} {x : Slot} (hm : s.mishap = some m)
    (hlate : 89 ≤ m.reach) (hcut : m.kind ≠ .hang → m.after ≤ 92) (hhang : m.kind = .hang → m.after ≤ 90)
    (hq : nextSeq (s.seenHeader .A) (s.seenHeader .B) = q) (hx : target (s.seenHeader .A) (s.seenHeader .B) = x) :
    ∃ t, storeWrite r s = .stop .abandoned t ∧ StoppedBy m (s.halfWritten (encodeRecord r) q x) t := by
  have hearly : s.undisturbed 89 := fun m' hm' => by cases hm.symm.trans hm'; exact hlate
  have hrest : ((s.halfWritten (encodeRecord r) q x).passed 89).mishap = some (m.later 89) :=
    congrArg (Option.map fun m => Mishap.later m 89) hm
  obtain ⟨t, hwrite, hstop⟩ := memWrite_stopped (addr := BitVec.ofNat 32 (hdrOff x))
    (data := hdrEncode (crc32 (encodeRecord r)) q) (by rw [hdrEncode_length]; cases x <;> decide) hrest
    (fun hk => Nat.sub_le_iff_le_add.2 (hcut hk)) (fun hk => Nat.sub_le_iff_le_add.2 (hhang hk))
  refine ⟨t, ?_, hstop.array, hstop.unfinished, hstop.seq⟩
  rw [storeWrite_undisturbed r hearly, hq, hx]
  exact op_then_stop ((writeHeader_eq rfl rfl rfl).trans (op_then_stop hwrite))

theorem halfWritten_seq {s : State} {i : Instr} (hs : s.seq = .busy i 0) {p : List Byte} (hp : p.length = 20)
    (q : DWord) (x : Slot) : (s.halfWritten p q x).seq = .busy i 89 := by
  show (((s.seq.advance 30).advance 30).advance 3).advance (4 + p.length + 2) = _
  rw [hs, hp]
  rfl

/-- Settles O57: the mishap is later than the payload's write and comes before the header's. -/
theorem stopBetweenTheWritesIsTransient : Obligations.StopBetweenTheWritesIsTransient := by
  intro s r kind n hs hm hd hcut hhang slot
  have hlate : 89 ≤ (Mishap.mk kind n).reach := by
    by_cases hk : kind = .hang
    · exact (Nat.succ_le_succ (hhang hk).1).trans (if_pos hk).ge
    · exact (hcut hk).1.trans (if_neg hk).ge
  have hseen : (s.accept (.storeWrite r)).seenHeader = s.dev.header := seenHeader_answers hd.1
  obtain ⟨t, hbody, hstop⟩ := storeWrite_stopped (s := s.accept (.storeWrite r)) (r := r) hm hlate
    (fun hk => (hcut hk).2) (fun hk => (hhang hk).2) (congrArg (fun f => nextSeq (f .A) (f .B)) hseen)
    (congrArg (fun f => target (f .A) (f .B)) hseen)
  have hhalf := (halfWritten_spec (s := s.accept (.storeWrite r)) hd (encodeRecord_length r) _ slot).stopped hstop
  refine ⟨t, ?_, ?_, hhalf.transient, hhalf.header, hhalf.payload, hhalf.otherBytes, hhalf.otherState,
    fun x => slotState_of_array rfl (by cases x <;> rfl)⟩
  · rw [exec_host rfl]
    exact hostOp_abandoned hs rfl (op_bind_stop hbody)
  · rw [hstop.seq, halfWritten_seq rfl (encodeRecord_length r)]
    rfl

end Sys2Proof.Machine

/-! # Proofs of the exceptions family (60_exceptions.md)

## The errors each body can raise -/

namespace Sys2Proof.Machine

/-- The errors that the body of each instruction can raise (60_exceptions.md R231); `hostBody_ends` ties it to the
bodies. -/
def raisable : Instr → List ResultCode
  | .drvRead _ _ | .drvWrite _ _ => [.range]
  | .storeRead => [.integrity, .notFound]
  | .drvRdsr | .drvWrsr _ | .drvWren | .drvWrdi | .drvSleep | .drvWake | .drvSetBp _ | .crc32 _ | .recEncode _
  | .recDecode _ | .hdrValidate _ | .hdrEncode _ _ | .storeWrite _ => []
  | .wrsr _ | .write _ _ | .read _ _ | .wrdi | .rdsr | .wren | .wake | .sleep => []

theorem code_ne_illegalOp : ∀ {c : ResultCode}, c ≠ .illegalOp → c.code ≠ 0xFF#8
  | .illegalOp, h => absurd rfl h
  | .ok, _ | .range, _ | .format, _ | .integrity, _ | .notFound, _ | .overflow, _ => by decide

/-- ILLEGAL_OP is answered by the operand checks only, never raised by a body (60_exceptions.md R240). -/
theorem raisable_ne_illegalOp {i : Instr} {c : ResultCode} (h : c ∈ raisable i) : c ≠ .illegalOp := by
  rintro rfl
  cases i <;> simp [raisable] at h

/-- The device and the lines that the block drives beside chip-select are as they were. -/
structure SameOutside (s t : State) : Prop where
  dev : t.dev = s.dev
  wp : t.wp = s.wp
  hold : t.hold = s.hold

/-- How a body of instruction `i` ends from `s` with no mishap armed: normally, or raising one of its errors before it
has changed anything outside the block (60_exceptions.md R237). -/
inductive QuietEnd (i : Instr) (s : State) : Res RespData → Prop
  | ok {d : RespData} {t : State} : QuietEnd i s (.ok d t)
  | raised {c : ResultCode} {t : State} : c ∈ raisable i → SameOutside s t → QuietEnd i s (.stop (.raised c) t)

section

variable {i : Instr} {s : State} {r : Res RespData}

theorem quietEnd_of_ok {d : RespData} {t : State} (h : r = .ok d t) : QuietEnd i s r := h ▸ .ok

theorem quietEnd_of_raised {c : ResultCode} {t : State} (h : r = .stop (.raised c) t) (hc : c ∈ raisable i)
    (ht : SameOutside s t) : QuietEnd i s r := h ▸ .raised hc ht

/-- STORE_READ raises NOT_FOUND after the two header READs and INTEGRITY after the payload's; a picked header passes
the re-check, so FORMAT is never raised (43_store.md R204, R206, R207). -/
theorem storeRead_ends (hm : s.mishap = none) : QuietEnd .storeRead s (storeRead s) := by
  cases hp : pick (s.seenHeader .A) (s.seenHeader .B) with
  | none =>
    exact quietEnd_of_raised (c := .notFound) ((storeRead_run hm).trans (congrFun (readPick_none hp) _))
      (.tail _ (.head _)) ⟨rfl, rfl, rfl⟩
  | some picked =>
    obtain ⟨x, h⟩ := picked
    by_cases hc : crc32 (s.dev.seenBytes (s.draws + 56) (payOff x) 20) = h.crc32
    · exact quietEnd_of_ok (storeRead_ok hm hp rfl hc)
    · exact quietEnd_of_raised (storeRead_integrity hm hp hc) (.head _) ⟨rfl, rfl, rfl⟩

/-- The driver's read and write raise RANGE before their first transaction (40_driver.md R110), STORE_READ what
`storeRead_ends` says, and every other body ends normally; the count check of the codec passes (41_codec.md R156). -/
theorem hostBody_ends (hm : s.mishap = none) : QuietEnd i s (hostBody i s) := by
  cases i with
  | drvRead addr n =>
    cases hr : rangeOk addr n.toNat with
    | true => exact quietEnd_of_ok (op_bind_ok (memRead_ok hr hm))
    | false =>
      exact quietEnd_of_raised (op_bind_stop (memRead_raised hr)) (.head _) ⟨rfl, rfl, rfl⟩
  | drvWrite addr data =>
    cases hr : rangeOk addr data.length with
    | true => exact quietEnd_of_ok (op_then_ok (memWrite_ok hr hm))
    | false =>
      exact quietEnd_of_raised (op_then_stop (memWrite_raised hr)) (.head _) ⟨rfl, rfl, rfl⟩
  | drvRdsr => exact quietEnd_of_ok (op_bind_ok (readStatus_ok hm))
  | drvWrsr v => exact quietEnd_of_ok (op_then_ok (writeStatus_ok hm))
  | drvWren | drvWrdi => exact quietEnd_of_ok (op_then_ok (txn_ok hm _))
  | drvSleep | drvWake => exact quietEnd_of_ok (sendThenDelay_explicit hm (fun _ => rfl) _ _)
  | drvSetBp cfg =>
    obtain ⟨t, ht, -⟩ := setBlockProtect_lines hm cfg
    exact quietEnd_of_ok (op_then_ok ht)
  | crc32 data => exact quietEnd_of_ok (op_bind_ok (f := fun c => Op.pure (RespData.crc c)) (crcRun_run data s))
  | recEncode r => exact quietEnd_of_ok (op_bind_ok (codecEncode_run r s))
  | recDecode b => exact quietEnd_of_ok (op_bind_ok (codecDecode_run b s))
  | storeWrite r => exact quietEnd_of_ok (op_bind_ok (storeWrite_run r hm rfl rfl))
  | storeRead => exact storeRead_ends hm
  | hdrValidate | hdrEncode | wrsr | write | read | wrdi | rdsr | wren | wake | sleep => exact .ok

end

/-! ## The answers of host operations -/

/-- What a host operation can answer from `s` with no mishap armed, with the state it then leaves
(60_exceptions.md R237, R240). -/
inductive Answer (i : Instr) (s : State) : State → Response → Prop
  | illegalOp : i.wellFormed = false → Answer i s s.illegalOp (.failure .illegalOp)
  | success {d : RespData} {t : State} : Answer i s (t.respond (.success d)) (.success d)
  | error {c : ResultCode} {t : State} : c ∈ raisable i → SameOutside s t →
      Answer i s (t.respond (.failure c)) (.failure c)

theorem exec_host_answer {i : Instr} {s t : State} {p : Response} (hs : s.ready) (hi : isHostOp i = true)
    (h : exec i s = .next t) (hp : t.response = some p) : Answer i s t p := by
  have hend : QuietEnd i (s.accept i) (hostBody i (s.accept i)) := hostBody_ends hs.2
  rw [exec_host hi] at h
  obtain ⟨-, ⟨hw, rfl⟩ | ⟨-, ⟨d, u, -, rfl⟩ | ⟨c, u, hb, rfl⟩ | hb⟩⟩ := hostOp_next h
  · cases hp
    exact .illegalOp hw
  · cases hp
    exact .success
  · cases hp
    rw [hb] at hend
    cases hend with
    | raised hc hu => exact .error hc ⟨hu.dev, hu.wp, hu.hold⟩
  · rw [hb] at hend
    cases hend

/-- Settles O15: a body raises no error but those of `raisable`. -/
theorem resultCodesByOperation : Obligations.ResultCodesByOperation := by
  intro i s t p hs hi h hp
  cases exec_host_answer hs hi h hp with
  | illegalOp hw => exact .inr (.inl ⟨rfl, hw⟩)
  | success => exact .inl rfl
  | error hc _ =>
    cases i with
    | drvRead addr n =>
      cases List.mem_singleton.1 hc
      exact .inr (.inr (.inl ⟨rfl, .inl ⟨addr, n, rfl⟩⟩))
    | drvWrite addr data =>
      cases List.mem_singleton.1 hc
      exact .inr (.inr (.inl ⟨rfl, .inr ⟨addr, data, rfl⟩⟩))
    | storeRead =>
      rcases List.mem_pair.1 hc with rfl | rfl
      · exact .inr (.inr (.inr ⟨.inl rfl, rfl⟩))
      · exact .inr (.inr (.inr ⟨.inr rfl, rfl⟩))
    | _ => cases hc

/-- Settles O16: ILLEGAL_OP writes the response only, and a raised error finds the device and the lines as they were. -/
theorem errorsLeaveTheDeviceAlone : Obligations.ErrorsLeaveTheDeviceAlone := by
  intro i s t p hs hi h hp hne
  cases exec_host_answer hs hi h hp with
  | illegalOp _ => exact ⟨rfl, rfl, rfl, (Bool.and_true _).symm, hs.1, rfl⟩
  | success => exact absurd rfl hne
  | @error c u hc ht =>
    have hcode : (c.code == 0xFF#8) = false := beq_false_of_ne (code_ne_illegalOp (raisable_ne_illegalOp hc))
    have hcs : (s.cs && c.code == 0xFF#8) = false := by rw [hcode, Bool.and_false]
    exact ⟨ht.dev, ht.wp, ht.hold, hcs.symm, rfl, rfl⟩

end Sys2Proof.Machine

/-! # Proofs of the reset and hazards family (70_reset_and_hazards.md)

## Reset (R260) -/

namespace Sys2Proof.Machine

/-- Settles O8: the reset state is written out in the model, and a presented block reset is `State.blockReset`. -/
theorem resetLeavesTheBlockIdle : Obligations.ResetLeavesTheBlockIdle :=
  ⟨⟨rfl, rfl, rfl, rfl, rfl, rfl, rfl⟩, fun _ _ => rfl⟩

/-! ## A store that is wholly protected (R275, R277) -/

/-- A write none of whose bytes lands. -/
theorem writeRange_of_none_lands {lands : Nat → Bool} (h : ∀ a, lands a = false) (m : Memory) (a : Nat)
    (l : List Byte) : Memory.writeRange lands m a l = m := by
  induction l generalizing a with
  | nil => rfl
  | cons v l ih => rw [Memory.writeRange, h a, if_neg Bool.false_ne_true, ih]

/-- Level All protects every address (10_state.md R34). -/
theorem isProtected_of_all {sr : Byte} (h : bp sr = 0b11#2) (a : Nat) : isProtected sr a = true := by
  rw [isProtected, h]
  rfl

theorem afterWrite_array_of_all {d : Device} (h : bp d.sr = 0b11#2) (base : Nat) (l : List Byte) :
    (d.afterWrite base l).array = d.array := by
  have hnone (a : Nat) : (!isProtected d.sr a) = false := by rw [isProtected_of_all h, Bool.not_true]
  show (if d.answers then Memory.writeRange _ d.array base l else d.array) = d.array
  rw [writeRange_of_none_lands hnone, ite_self]

theorem afterStore_array_of_all {d : Device} (h : bp d.sr = 0b11#2) (x : Slot) (p hdr : List Byte) :
    (d.afterStore x p hdr).array = d.array := by
  have hafter : bp (d.afterWrite (payOff x) p).sr = 0b11#2 := (bp_srAfterWrite d).trans h
  rw [Device.afterStore, afterWrite_array_of_all hafter, afterWrite_array_of_all h]

/-- Settles O53: the STORE_WRITE runs to its end, and neither of its two writes lands. -/
theorem protectedSlotsSwallowStoreWrites : Obligations.ProtectedSlotsSwallowStoreWrites := by
  intro s r hs ha hbp
  rw [← seenHeader_answers ha]
  obtain ⟨_, hwritten⟩ := storeWritten_explicit (s.accept (.storeWrite r)) (encodeRecord_length r)
    (hdrEncode_length (crc32 (encodeRecord r)) (nextSeq (s.seenHeader .A) (s.seenHeader .B)))
    (nextSeq (s.seenHeader .A) (s.seenHeader .B)) (target (s.seenHeader .A) (s.seenHeader .B))
  have hrun := exec_storeWrite_run r hs rfl rfl
  rw [hwritten] at hrun
  exact ⟨_, hrun, rfl, afterStore_array_of_all hbp _ _ _⟩

/-! ## A store whose sequence number has wrapped (R279) -/

/-- After 2^64 - 1 in slot A and 0 in slot B the next number is 0 again, for slot B (43_store.md R197, R198). -/
theorem chosen_after_wrap {a b : Header} (ha : a.seqno = BitVec.ofNat 64 (2 ^ 64 - 1)) (hb : b.seqno = 0#64) :
    nextSeq (some a) (some b) = 0#64 ∧ target (some a) (some b) = .B := by
  simp only [nextSeq, target, maxSeq, ha, hb]
  decide

/-- Settles O54: the write leaves slot A the newest, so the read takes it. -/
theorem wrappedStoreIsStuck : Obligations.WrappedStoreIsStuck := by
  intro s r a b hs hd hA hB ha hb hcrc
  obtain ⟨hnext, htarget⟩ := chosen_after_wrap ha hb
  rw [← hA, ← hB] at hnext htarget
  obtain ⟨t, hexec, hst⟩ := exec_storeWrite_stored r hs hd hnext htarget
  have hA' : t.dev.header .A = some a := hst.otherHeader.trans hA
  have hnewest : Newest t.dev.header .A a := by
    refine ⟨hA', fun g hg => ?_⟩
    cases hst.valid.symm.trans hg
    rw [ha]
    exact (by decide : 0#64 < BitVec.ofNat 64 (2 ^ 64 - 1))
  have hpay : t.dev.payload .A = s.dev.payload .A := hst.otherBytes _ _ (by decide) (by decide)
  obtain ⟨u, hread, hanswer⟩ := exec_storeRead_newest hst.ready hst.writable.1 hnewest
    ((congrArg crc32 hpay).trans hcrc)
  rw [hpay, ha] at hanswer
  exact ⟨t, u, hexec, hread, hst.response, hA', hst.slotState, hanswer⟩

/-! ## What bodies are built from

Every body is put together from the same few parts, so that a property of each part, kept by sequencing, is one of every
body, wherever in it a mishap happens. -/

/-- The ways a body is built (00_scope.md R10): values, errors, registers, transactions and single bus actions, one
after another. -/
inductive Built : {α : Type} → Op α → Prop
  | pure {α : Type} (a : α) : Built (Op.pure a)
  | raise {α : Type} (c : ResultCode) : Built (Machine.raise (α := α) c)
  | bind {α β : Type} {x : Op α} {f : α → Op β} : Built x → (∀ a, Built (f a)) → Built (x.bind f)
  | read {α : Type} (n : WorkReg) (get : WorkRegs → Option α) : Built (readReg n get)
  | write (upd : WorkRegs → WorkRegs) : Built (writeRegs upd)
  | mark (x : Slot) (u : State → Option Unfinished) : Built fun s => .ok () (s.setUnfinished x (u s))
  | txn (f : Frame) : Built (Machine.txn f)
  | delay (us : Nat) : Built (Machine.delay us)
  | driveWp (level : Bool) : Built (Machine.driveWp level)

namespace Built

theorem andThen {α β : Type} {x : Op α} {y : Op β} (hx : Built x) (hy : Built y) : Built (x.andThen y) :=
  hx.bind fun _ => hy

/-- A check of something that is not in the state. -/
theorem check (p : Prop) [Decidable p] (c : ResultCode) :
    Built fun s => if p then .ok () s else .stop (.raised c) s := by
  by_cases hp : p
  · simp only [if_pos hp]
    exact .pure ()
  · simp only [if_neg hp]
    exact .raise (α := Unit) c

theorem checkCount (p : Nat) : Built (Machine.checkCount p) := by
  unfold Machine.checkCount
  simp only [← ite_not (p := 2 ^ Config.countWidth ≤ p)]
  exact check _ _

theorem writeEnable : Built Machine.writeEnable := (txn _).andThen (pure _)

theorem memRead (addr : Word) (n : Nat) : Built (Machine.memRead addr n) :=
  (check _ _).andThen <| (txn _).bind fun _ => (write _).andThen (read _ _)

theorem memWrite (addr : Word) (data : List Byte) : Built (Machine.memWrite addr data) :=
  (check _ _).andThen <| writeEnable.andThen <| (txn _).andThen (pure _)

theorem readStatus : Built Machine.readStatus :=
  (txn _).bind fun _ => (write _).andThen <| (read _ _).bind fun _ => pure _

theorem writeStatus (v : Byte) : Built (Machine.writeStatus v) := writeEnable.andThen <| (txn _).andThen (pure _)

theorem setBlockProtect (cfg : Byte) : Built (Machine.setBlockProtect cfg) := by
  have lock : Built (if cfgHwLock cfg then Machine.driveWp true else Op.pure ()) := by
    split_ifs
    · exact driveWp true
    · exact pure ()
  exact readStatus.bind fun _ => (write _).andThen <| lock.andThen <| (read _ _).bind fun v => writeStatus v

theorem codecEncode (b : Bureau) : Built (Machine.codecEncode b) :=
  (checkCount _).andThen <| (write _).andThen (read _ _)

theorem codecDecode (l : List Byte) : Built (Machine.codecDecode l) := (checkCount _).andThen (pure _)

theorem crcRun (data : List Byte) : Built (Machine.crcRun data) := (write _).andThen <| (read _ _).bind fun _ => pure _

theorem readHdr (x : Slot) : Built (Machine.readHdr x) := by
  have hbuf : Built (getHbuf x) := by cases x <;> exact read _ _
  refine (memRead _ _).bind fun l => andThen ?_ (hbuf.bind fun h => ?_)
  · rw [setHbuf_eq]
    exact write _
  · rw [setHdr_eq]
    exact write _

theorem storeWrite (b : Bureau) : Built (Machine.storeWrite b) := by
  have prepare : Built (preparePayload b) :=
    (codecEncode b).andThen <| (read _ _).bind fun p => (crcRun p).bind fun _ => write _
  have choose : Built chooseTarget :=
    bind (read _ _) fun _ => bind (read _ _) fun _ => (write _).andThen (write _)
  have payload : Built writePayload :=
    bind (read _ _) fun _ => bind (read _ _) fun _ => (memWrite _ _).andThen (mark _ _)
  have header : Built writeHeader :=
    bind (read _ _) fun _ => bind (read _ _) fun _ => bind (read _ _) fun _ => (memWrite _ _).andThen (mark _ _)
  exact prepare.andThen <| (readHdr .A).andThen <| (readHdr .B).andThen <| choose.andThen <| payload.andThen <|
    header.andThen (read _ _)

theorem readPayload (h : Header) : Built (Machine.readPayload h) :=
  bind (read _ _) fun _ => (memRead _ _).bind fun _ => (write _).andThen <| (read _ _).bind fun p =>
    (crcRun p).bind fun _ => (write _).andThen <| (read _ _).bind fun _ => check _ _

theorem readPick (ha hb : Option Header) : Built (Machine.readPick ha hb) := by
  unfold Machine.readPick
  cases pick ha hb with
  | none => exact raise .notFound
  | some p =>
    exact (write _).andThen <| (check _ _).andThen <| (readPayload p.2).andThen <|
      (read _ _).bind fun l => (codecDecode l).bind fun _ => pure _

theorem storeRead : Built Machine.storeRead :=
  (readHdr .A).andThen <| (readHdr .B).andThen <| bind (read _ _) fun ha => bind (read _ _) fun hb => readPick ha hb

theorem frameBody (f : Frame) : Built (Machine.frameBody f) := by
  cases f with
  | read | rdsr => exact (txn _).bind fun _ => write _
  | wrsr | write | wrdi | wren | wake | sleep => exact (txn _).andThen (pure _)

theorem hostBody (i : Instr) : Built (Machine.hostBody i) := by
  cases i with
  | drvRead addr n => exact (memRead _ _).bind fun _ => pure _
  | drvWrite addr data => exact (memWrite _ _).andThen (pure _)
  | drvRdsr => exact readStatus.bind fun _ => pure _
  | drvWrsr v => exact (writeStatus v).andThen (pure _)
  | drvWren | drvWrdi => exact (txn _).andThen (pure _)
  | drvSleep | drvWake => exact (txn _).andThen <| (delay _).andThen (pure _)
  | drvSetBp cfg => exact (setBlockProtect cfg).andThen (pure _)
  | crc32 data => exact (crcRun data).bind fun _ => pure _
  | recEncode b => exact (codecEncode b).bind fun _ => pure _
  | recDecode l => exact (codecDecode l).bind fun _ => pure _
  | storeWrite b => exact (storeWrite b).bind fun _ => pure _
  | storeRead => exact storeRead
  | hdrValidate | hdrEncode | wrsr | write | read | wrdi | rdsr | wren | wake | sleep => exact pure _

end Built

/-! ## A hung byte exchange, wherever it comes (R278; 20_memory.md R71) -/

/-- Instruction `i` is in progress, with a hang still to come and `p` the response so far. -/
structure AwaitsHang (i : Instr) (p : Option Response) (s : State) : Prop where
  seq : ∃ n, s.seq = .busy i n
  mishap : ∃ k, s.mishap = some { kind := .hang, after := k }
  response : s.response = p

/-- Instruction `i` has hung (R278): chip-select stays asserted, and the hang is used up. -/
structure Hung (i : Instr) (p : Option Response) (s : State) : Prop where
  seq : ∃ n, s.seq = .busy i n
  cs : s.cs = true
  mishap : s.mishap = none
  response : s.response = p

/-- How a body can end early with a hang armed: raising an error before the hang, or abandoned by it. -/
def HangEnd (i : Instr) (p : Option Response) : Stop → State → Prop
  | .raised _, s => AwaitsHang i p s
  | .abandoned, s => Hung i p s
  | .faulted _, _ => True

section

variable {i : Instr} {p : Option Response}

theorem advance_busy {q : Seq} (h : ∃ n, q = .busy i n) (k : Nat) : ∃ n, q.advance k = .busy i n := by
  obtain ⟨n, rfl⟩ := h
  exact ⟨n + k, rfl⟩

/-- Bus actions done before the hang leave it to come. -/
theorem AwaitsHang.counted {s t : State} (h : AwaitsHang i p s) {k : Nat} (hseq : t.seq = s.seq.advance k)
    (hmishap : t.mishap = s.mishap.map (·.later k)) (hresp : t.response = s.response) : AwaitsHang i p t := by
  obtain ⟨j, hm⟩ := h.mishap
  exact ⟨hseq ▸ advance_busy h.seq k, ⟨j - k, by rw [hmishap, hm]; rfl⟩, hresp.trans h.response⟩

/-- A hang comes after Select (R278). -/
theorem firesIn_hang {k len : Nat} :
    (Mishap.mk .hang k).firesIn len = if k ≤ len then some (max k 1) else none := rfl

/-- A transaction cut after its Select by a hang stalls the operation with chip-select asserted. -/
theorem AwaitsHang.hung {s : State} (h : AwaitsHang i p s) (f : Frame) {done : Nat} (hd : done ≠ 0) :
    Hung i p ((s.cutTxn f done).struck .hang) := by
  rw [State.cutTxn, if_neg hd]
  exact ⟨advance_busy h.seq done, rfl, rfl, h.response⟩

/-- A single bus action is no byte exchange, so it does not hang. -/
theorem hang_action {ev : BusEvent} {upd : State → State}
    (hupd : ∀ s, (upd s).seq = s.seq ∧ (upd s).mishap = s.mishap ∧ (upd s).response = s.response) :
    Op.Triple (AwaitsHang i p) (action ev upd) (fun _ => AwaitsHang i p) (HangEnd i p) := by
  refine triple_action (fun s h _ => ?_) fun s m h hm hf => ?_
  · obtain ⟨hseq, hmishap, hresp⟩ := hupd s
    exact h.counted (congrArg (Seq.advance · 1) hseq)
      (congrArg (Option.map fun m : Mishap => m.later 1) hmishap) hresp
  · obtain ⟨k, hk⟩ := h.mishap
    cases hk.symm.trans hm
    cases hf

/-- A body with a hang armed ends with the hang still to come, or stalled by it. -/
theorem Built.hang {α : Type} {x : Op α} (hx : Built x) :
    Op.Triple (AwaitsHang i p) x (fun _ => AwaitsHang i p) (HangEnd i p) := by
  induction hx with
  | pure a => exact triple_pure fun _ h => h
  | raise c => exact triple_raise fun _ h => h
  | bind _ _ ihx ihf => exact triple_bind ihx ihf
  | read n get =>
    intro s h
    unfold readReg
    cases get s.regs with
    | none => exact trivial
    | some v => exact h
  | write upd => exact triple_writeRegs fun _ h => { h with }
  | mark x u => exact fun s h => { h with }
  | txn f =>
    refine triple_txn (fun s h _ => h.counted rfl rfl rfl) fun s m done h hm hf => ?_
    obtain ⟨k, hk⟩ := h.mishap
    cases hk.symm.trans hm
    rw [firesIn_hang] at hf
    split_ifs at hf
    cases hf
    exact h.hung f (Nat.ne_of_gt (le_max_right k 1))
  | delay us => exact hang_action fun _ => ⟨rfl, rfl, rfl⟩
  | driveWp level => exact hang_action fun _ => ⟨rfl, rfl, rfl⟩

end

/-- How an instruction with a hang armed ends: Idle with the hang still to come, or hung. -/
def HangOutcome (i : Instr) (p : Option Response) (t : State) : Prop :=
  (t.seq = .idle ∧ ∃ k, t.mishap = some { kind := .hang, after := k }) ∨ Hung i p t

/-- The end of a body with a hang armed, as the end of its instruction. -/
theorem settle_hang {α : Type} {i : Instr} {p : Option Response} {x : Op α} (hx : Built x)
    {complete : α → State → State} (hc : ∀ a t, (complete a t).seq = .idle ∧ (complete a t).mishap = t.mishap)
    {s u : State} (hs : AwaitsHang i p s) (h : settle complete (x s) = .next u) : HangOutcome i p u := by
  cases hb : x s with
  | ok a t =>
    rw [hb] at h
    cases h
    obtain ⟨hseq, hmishap⟩ := hc a t
    exact .inl ⟨hseq, hmishap ▸ (triple_ok hx.hang hs hb).mishap⟩
  | stop e t =>
    rw [hb] at h
    have hend : HangEnd i p e t := triple_stop hx.hang hs hb
    cases e with
    | raised c => cases h; exact .inl ⟨rfl, AwaitsHang.mishap (s := t) hend⟩
    | abandoned => cases h; exact .inr hend
    | faulted f => cases h

theorem exec_hang {i : Instr} {s t : State} {k : Nat} (hs : s.seq = .idle)
    (hm : s.mishap = some { kind := .hang, after := k }) (h : exec i s = .next t) : HangOutcome i s.response t := by
  have start : AwaitsHang i s.response (s.accept i) := ⟨⟨0, rfl⟩, ⟨k, hm⟩, rfl⟩
  cases hw : i.wellFormed with
  | false =>
    rw [exec_illFormed hs hw] at h
    split_ifs at h
    cases h
    exact .inl ⟨hs, k, hm⟩
  | true =>
    rcases frame_or_host i with ⟨f, rfl⟩ | hi
    · rw [exec_frame, serialOp_idle hs (frame_wellFormed f ▸ hw)] at h
      refine settle_hang (.frameBody f) ?_ start h
      exact fun _ _ => ⟨rfl, rfl⟩
    · rw [exec_host hi, hostOp_idle hs hw] at h
      refine settle_hang (.hostBody i) ?_ start h
      exact fun _ _ => ⟨rfl, rfl⟩

/-! ## A hang in the first frame that an instruction sends -/

/-- The body sends a frame of `len` bytes before any other bus action, so a hang due by the last of them stalls it
there. -/
def StallsIn {α : Type} (len : Nat) (x : Op α) : Prop :=
  ∀ (s : State) (k : Nat), s.mishap = some { kind := .hang, after := k } → k ≤ len →
    ∃ t, x s = .stop .abandoned t ∧ t.seq = s.seq.advance (max k 1)

section

variable {α β : Type} {len : Nat}

theorem stallsIn_txn (f : Frame) : StallsIn f.bytes.length (txn f) := by
  intro s k hm hk
  refine ⟨(s.cutTxn f (max k 1)).struck .hang, by simp only [txn, hm, firesIn_hang, if_pos hk], ?_⟩
  rw [State.cutTxn, if_neg (Nat.ne_of_gt (le_max_right k 1))]
  rfl

theorem stallsIn_bind {x : Op α} (hx : StallsIn len x) (f : α → Op β) : StallsIn len (x.bind f) := by
  intro s k hm hk
  obtain ⟨t, ht, hseq⟩ := hx s k hm hk
  exact ⟨t, op_bind_stop ht, hseq⟩

theorem stallsIn_then {x : Op α} (hx : StallsIn len x) (y : Op β) : StallsIn len (x.andThen y) := stallsIn_bind hx _

/-- What comes before the frame does not touch the bus. -/
theorem stallsIn_after {x : Op α} {y : Op β} (hy : StallsIn len y)
    (hx : ∀ s, ∃ a t, x s = .ok a t ∧ t.mishap = s.mishap ∧ t.seq = s.seq) : StallsIn len (x.andThen y) := by
  intro s k hm hk
  obtain ⟨a, u, hu, hmishap, hbusy⟩ := hx s
  obtain ⟨t, ht, hseq⟩ := hy u k (hmishap.trans hm) hk
  exact ⟨t, (op_then_ok hu).trans ht, by rw [hseq, hbusy]⟩

/-- A range check that passes (40_driver.md R110). -/
theorem stallsIn_checked {addr : Word} {n : Nat} {y : Op β} (hr : addr.toNat + n ≤ 0x80000) (hy : StallsIn len y) :
    StallsIn len ((checkRange addr n).andThen y) :=
  stallsIn_after hy fun s => ⟨(), s, checkRange_ok ((rangeOk_iff _ _).2 hr) s, rfl, rfl⟩

theorem stallsIn_writeEnable : StallsIn 1 writeEnable := stallsIn_then (stallsIn_txn .wren) _

theorem stallsIn_memRead {addr : Word} {n : Nat} (hr : addr.toNat + n ≤ 0x80000) :
    StallsIn (4 + n) (memRead addr n) := by
  rw [← read_bytes_length (busAddr addr) n]
  exact stallsIn_checked hr (stallsIn_bind (stallsIn_txn _) _)

theorem stallsIn_readHdr (x : Slot) : StallsIn 28 (readHdr x) :=
  stallsIn_bind (stallsIn_memRead (n := Config.headerSize) (by cases x <;> decide)) _

theorem stallsIn_frameBody (f : Frame) : StallsIn f.bytes.length (frameBody f) := by
  cases f with
  | read | rdsr => exact stallsIn_bind (stallsIn_txn _) _
  | wrsr | write | wrdi | wren | wake | sleep => exact stallsIn_then (stallsIn_txn _) _

end

/-- The frame of an instruction that is one is its first (30_encoding.md R81). -/
theorem firstFrame_frame {f : Frame} {len : Nat} (h : firstFrame f.instr = some len) :
    f.wellFormed = true ∧ f.bytes.length = len := by
  cases f with
  | write addr data =>
    obtain ⟨hr, hlen⟩ := Option.ite_none_right_eq_some.1 h
    exact ⟨decide_eq_true hr, (write_bytes_length addr data).trans (Option.some.inj hlen)⟩
  | read addr n =>
    obtain ⟨hr, hlen⟩ := Option.ite_none_right_eq_some.1 h
    exact ⟨decide_eq_true hr, (read_bytes_length addr n).trans (Option.some.inj hlen)⟩
  | wrsr | wrdi | rdsr | wren | wake | sleep => exact ⟨rfl, Option.some.inj h⟩

/-- The first frame of a host operation, which is well formed if it sends one. -/
theorem firstFrame_host {i : Instr} {len : Nat} (hi : isHostOp i = true) (h : firstFrame i = some len) :
    i.wellFormed = true ∧ StallsIn len (hostBody i) := by
  cases i with
  | wrsr | write | read | wrdi | rdsr | wren | wake | sleep => cases hi
  | crc32 | recEncode | recDecode | hdrValidate | hdrEncode => cases h
  | drvRead addr n =>
    obtain ⟨hr, hlen⟩ := Option.ite_none_right_eq_some.1 h
    cases hlen
    exact ⟨rfl, stallsIn_bind (stallsIn_memRead hr) _⟩
  | drvWrite addr data =>
    obtain ⟨hr, hlen⟩ := Option.ite_none_right_eq_some.1 h
    cases hlen
    exact ⟨decide_eq_true (by omega), stallsIn_then (stallsIn_checked hr (stallsIn_then stallsIn_writeEnable _)) _⟩
  | drvSetBp cfg =>
    obtain ⟨hcfg, hlen⟩ := Option.ite_none_right_eq_some.1 h
    cases hlen
    exact ⟨beq_iff_eq.2 hcfg, stallsIn_then (stallsIn_bind (stallsIn_bind (stallsIn_txn .rdsr) _) _) _⟩
  | drvRdsr => cases h; exact ⟨rfl, stallsIn_bind (stallsIn_bind (stallsIn_txn .rdsr) _) _⟩
  | drvWrsr v => cases h; exact ⟨rfl, stallsIn_then (stallsIn_then stallsIn_writeEnable _) _⟩
  | drvWren => cases h; exact ⟨rfl, stallsIn_then (stallsIn_txn .wren) _⟩
  | drvWrdi => cases h; exact ⟨rfl, stallsIn_then (stallsIn_txn .wrdi) _⟩
  | drvSleep => cases h; exact ⟨rfl, stallsIn_then (stallsIn_txn .sleep) _⟩
  | drvWake => cases h; exact ⟨rfl, stallsIn_then (stallsIn_txn .wake) _⟩
  | storeRead => cases h; exact ⟨rfl, stallsIn_then (stallsIn_readHdr .A) _⟩
  | storeWrite r =>
    cases h
    exact ⟨rfl, stallsIn_bind (stallsIn_after (stallsIn_then (stallsIn_readHdr .A) _)
      fun s => ⟨(), _, preparePayload_run r s, rfl, rfl⟩) _⟩

/-- A hang due within the first frame is reached, and its instruction stays Busy there. -/
theorem exec_hang_firstFrame {i : Instr} {s : State} {k len : Nat} (hs : s.seq = .idle)
    (hm : s.mishap = some { kind := .hang, after := k }) (hf : firstFrame i = some len) (hk : k ≤ len) :
    ∃ t, exec i s = .next t ∧ t.seq = .busy i (max k 1) := by
  have hbusy : (s.accept i).seq.advance (max k 1) = .busy i (max k 1) := congrArg (Seq.busy i) (Nat.zero_add _)
  rcases frame_or_host i with ⟨f, rfl⟩ | hi
  · obtain ⟨hw, rfl⟩ := firstFrame_frame hf
    obtain ⟨t, ht, hseq⟩ := stallsIn_frameBody f (s.accept f.instr) k hm hk
    exact ⟨t, by rw [exec_frame, serialOp_idle hs hw, ht]; rfl, hseq.trans hbusy⟩
  · obtain ⟨hw, hstall⟩ := firstFrame_host hi hf
    obtain ⟨t, ht, hseq⟩ := hstall (s.accept i) k hm hk
    exact ⟨t, by rw [exec_host hi, hostOp_abandoned hs hw ht], hseq.trans hbusy⟩

/-- Settles O58: `Built.hang` for a hang anywhere, `StallsIn` for one in the first frame. -/
theorem hungExchangeStaysBusy : Obligations.HungExchangeStaysBusy := by
  intro i s k hs hm
  refine ⟨fun t h => (exec_hang hs hm h).imp_right fun hung => ?_, fun len hf hk => exec_hang_firstFrame hs hm hf hk⟩
  obtain ⟨n, hseq⟩ := hung.seq
  exact ⟨n, hseq, hung.cs, hung.mishap, hung.response, fun j => exec_busy j hseq⟩

/-! ## Power lost in an operation (20_memory.md R63; R272)

`k` bus actions are done when power is lost. -/

/-- What power loss leaves of a device `d` that was being written in the `n` bytes from `base`: every byte outside them,
with the block as after reset. -/
structure LostIn (d : Device) (base n : Nat) (t : State) : Prop where
  ready : t.ready
  params : t.dev.params = d.params
  apart : ∀ a, ¬ (base ≤ a ∧ a < base + n) → Memory.read t.dev.array a = Memory.read d.array a

/-- A range that meets none of the bytes being written reads as before. -/
theorem LostIn.bytesAt {d : Device} {base n : Nat} {t : State} (h : LostIn d base n t) {a m : Nat}
    (hm : n = 0 ∨ a + m ≤ base ∨ base + n ≤ a) : t.dev.bytesAt a m = d.bytesAt a m :=
  Memory.readRange_congr fun b _ _ => h.apart b (by omega)

section

variable {s : State} {k : Nat} (hm : s.mishap = some { kind := .powerLoss, after := k })
include hm

/-- The mishap `n` bus actions later. -/
theorem passed_powerLoss {t : State} {n : Nat} (ht : t.mishap = s.mishap.map (·.later n)) :
    t.mishap = some { kind := .powerLoss, after := k - n } := by
  rw [ht, hm]
  rfl

theorem undisturbed_of_powerLoss {n : Nat} (h : n ≤ k) : s.undisturbed n := by
  intro m hm'
  cases hm.symm.trans hm'
  exact h

omit hm in
/-- After a cut transaction the mishap is used up, and the block is as after reset. -/
theorem lostIn_of_cut {u : State} {f : Frame} {done : Nat} {d : Device} {base n : Nat} (hp : u.dev.params = d.params)
    (ha : ∀ a, ¬ (base ≤ a ∧ a < base + n) →
      Memory.read (u.cutTxn f done).dev.array a = Memory.read d.array a) :
    LostIn d base n ((u.cutTxn f done).struck .powerLoss) := by
  have hused : (u.cutTxn f done).mishap = none ∧ (u.cutTxn f done).dev.params = u.dev.params := by
    unfold State.cutTxn
    split_ifs
    · exact ⟨rfl, rfl⟩
    · exact ⟨rfl, Device.cut_params ..⟩
  refine ⟨⟨rfl, hused.1⟩, (Device.powerCycle_params ..).trans (hused.2.trans hp), fun a h => ?_⟩
  rw [struck_array]
  exact ha a h

/-- Lost in a driver read, which writes nothing. -/
theorem memRead_lost {addr : Word} {n : Nat} (hr : addr.toNat + n ≤ 0x80000) (h : k < 4 + n + 2) (base : Nat) :
    ∃ t, memRead addr n s = .stop .abandoned t ∧ LostIn s.dev base 0 t := by
  have hcut : txn (.read (busAddr addr) n) s = _ := txn_cut hm MishapKind.noConfusion (by rwa [read_bytes_length])
  refine ⟨_, (op_then_ok (checkRange_ok ((rangeOk_iff _ _).2 hr) s)).trans (op_bind_stop hcut), ?_⟩
  exact lostIn_of_cut rfl fun a _ => by rw [cutTxn_array (by simp)]

/-- Lost in a driver write: before the Select of its WRITE it has written nothing. -/
theorem memWrite_lost {addr : Word} {data : List Byte} (hr : addr.toNat + data.length ≤ 0x80000)
    (h : k < 3 + (4 + data.length + 2)) :
    ∃ t, memWrite addr data s = .stop .abandoned t ∧
      LostIn s.dev addr.toNat (if 3 < k then data.length else 0) t := by
  rcases Nat.lt_or_ge k 3 with hk | hk
  · refine ⟨_, memWrite_cut_wren hr hm MishapKind.noConfusion hk, ?_⟩
    exact lostIn_of_cut rfl fun a _ => by rw [cutTxn_array (by decide)]
  · refine ⟨_, memWrite_cut_write hr hm MishapKind.noConfusion hk h, ?_⟩
    refine lostIn_of_cut (Device.apply_params ..) fun a ha => ?_
    rw [read_cutTxn_write, if_neg, State.afterTxn_dev, apply_array (by decide)]
    rw [busAddr_toNat (by omega)]
    rintro ⟨-, hlate, hlow, hhigh⟩
    rw [if_pos (Nat.lt_of_sub_pos hlate)] at ha
    exact ha ⟨hlow, hhigh⟩

theorem readHdr_lost (x : Slot) (h : k < 30) (base : Nat) :
    ∃ t, readHdr x s = .stop .abandoned t ∧ LostIn s.dev base 0 t := by
  obtain ⟨t, hread, hlost⟩ := memRead_lost hm (addr := BitVec.ofNat 32 (hdrOff x)) (n := Config.headerSize)
    (by cases x <;> decide) h base
  exact ⟨t, op_bind_stop hread, hlost⟩

/-- Lost in one of the two header READs that STORE_WRITE begins with. -/
theorem readHdrs_lost {α : Type} (h : k < 60) (y : Op α) (base : Nat) :
    ∃ t, ((readHdr .A).andThen <| (readHdr .B).andThen y) s = .stop .abandoned t ∧ LostIn s.dev base 0 t := by
  rcases Nat.lt_or_ge k 30 with hk | hk
  · obtain ⟨t, hread, hlost⟩ := readHdr_lost hm .A hk base
    exact ⟨t, op_then_stop hread, hlost⟩
  · obtain ⟨t, hread, hlost⟩ := readHdr_lost (passed_powerLoss hm (n := 30)
      (t := (s.afterHdr .A (s.dev.seenBytes s.draws (hdrOff .A) Config.headerSize)).passed 30) rfl) .B
      (by omega) base
    exact ⟨t, (op_then_ok (readHdr_undisturbed .A (undisturbed_of_powerLoss hm hk))).trans (op_then_stop hread), hlost⟩

/-- Lost in the write of the payload. -/
theorem writePayload_lost {x : Slot} {p : List Byte} (hx : s.regs.target = some x) (hp : s.regs.pay = some p)
    (hl : p.length = 20) (h : k < 29) :
    ∃ t, writePayload s = .stop .abandoned t ∧ LostIn s.dev (payOff x) 20 t := by
  have haddr : (BitVec.ofNat 32 (payOff x)).toNat = payOff x := by cases x <;> rfl
  obtain ⟨t, hwrite, hlost⟩ := memWrite_lost hm (addr := BitVec.ofNat 32 (payOff x)) (data := p)
    (by rw [hl]; cases x <;> decide) (by omega)
  rw [haddr] at hlost
  refine ⟨t, ?_, hlost.ready, hlost.params, fun a ha => hlost.apart a fun hin => ?_⟩
  · rw [writePayload, op_bind_ok (getTarget_some hx), op_bind_ok (getPay_some hp)]
    exact op_then_stop hwrite
  · split_ifs at hin <;> omega

/-- Lost in the write of the header, or in the WREN before it. -/
theorem writeHeader_lost {x : Slot} {c : Word} {q : DWord} (hx : s.regs.target = some x) (hc : s.regs.crc = some c)
    (hq : s.regs.nextSeq = some q) (h : k < 33) :
    ∃ t, writeHeader s = .stop .abandoned t ∧ LostIn s.dev (hdrOff x) (if 3 < k then 24 else 0) t := by
  have haddr : (BitVec.ofNat 32 (hdrOff x)).toNat = hdrOff x := by cases x <;> rfl
  obtain ⟨t, hwrite, hlost⟩ := memWrite_lost hm (addr := BitVec.ofNat 32 (hdrOff x)) (data := hdrEncode c q)
    (by rw [hdrEncode_length]; cases x <;> decide) (by rwa [hdrEncode_length])
  rw [haddr, hdrEncode_length] at hlost
  exact ⟨t, (writeHeader_eq hx hc hq).trans (op_then_stop hwrite), hlost⟩

end

/-! ## What is left of a STORE_WRITE in which power is lost (R272) -/

/-- What power lost after `k` bus actions leaves of a STORE_WRITE of `r` to slot `x` of the device `d`: the other slot
as it was, the header of `x` too before its WRITE is selected, and from there on the new payload. -/
structure LostStore (d : Device) (r : Bureau) (x : Slot) (k : Nat) (t : State) : Prop where
  ready : t.ready
  params : t.dev.params = d.params
  otherBytes : ∀ a n, hdrOff x.other ≤ a → a + n ≤ hdrOff x.other + 44 → t.dev.bytesAt a n = d.bytesAt a n
  header : k ≤ 92 → t.dev.bytesAt (hdrOff x) 24 = d.bytesAt (hdrOff x) 24
  payload : 92 < k → t.dev.payload x = encodeRecord r

section

variable {d : Device} {t : State} {x : Slot} {n k : Nat}

/-- Before the payload has been written whole, at most its bytes have changed. -/
theorem LostIn.store_early (h : LostIn d (payOff x) n t) (hn : n ≤ 20) (hk : k < 89) (r : Bureau) :
    LostStore d r x k t := by
  obtain ⟨hpay, -, hapart⟩ := slot_map x
  exact ⟨h.ready, h.params, fun a m _ _ => h.bytesAt (by omega), fun _ => h.bytesAt (by omega), fun _ => by omega⟩

/-- After the payload's write at most the header's bytes have changed, and those only once its WRITE is selected. -/
theorem LostIn.store_late {r : Bureau} (hd : d.slotsWritable)
    (h : LostIn (d.afterWrite (payOff x) (encodeRecord r)) (hdrOff x) (if 92 < k then 24 else 0) t) :
    LostStore d r x k t := by
  obtain ⟨hpay, hlow, hapart⟩ := slot_map x
  have hlen : (encodeRecord r).length = 20 := encodeRecord_length r
  have hn : (if 92 < k then 24 else 0) ≤ 24 := by split_ifs <;> omega
  refine ⟨h.ready, h.params, fun a m ha hm => ?_, fun hk => ?_, fun _ => ?_⟩
  · exact (h.bytesAt (by omega)).trans (bytesAt_afterWrite_apart (by omega) _)
  · exact (h.bytesAt (.inl (if_neg (Nat.not_lt.2 hk)))).trans (bytesAt_afterWrite_apart (by omega) _)
  · have hwrite := bytesAt_afterWrite hd (base := payOff x) (l := encodeRecord r) (by omega)
    rw [hlen] at hwrite
    exact (h.bytesAt (by omega)).trans hwrite

end

/-- Power lost in a STORE_WRITE: in its header READs, in its payload's write, or after that. -/
theorem storeWrite_lost {s : State} (r : Bureau) {k : Nat} (hm : s.mishap = some { kind := .powerLoss, after := k })
    (hk : k < 122) (hd : s.dev.slotsWritable) {x : Slot} (hx : target (s.seenHeader .A) (s.seenHeader .B) = x) :
    ∃ t, storeWrite r s = .stop .abandoned t ∧ LostStore s.dev r x k t := by
  have hm' : (s.afterPrepare (encodeRecord r)).mishap = some { kind := .powerLoss, after := k } := hm
  rcases Nat.lt_or_ge k 89 with hearly | hlate
  · rw [storeWrite, op_then_ok (preparePayload_run r s)]
    rcases Nat.lt_or_ge k 60 with hreads | hwrites
    · obtain ⟨t, hstop, hlost⟩ := readHdrs_lost hm' hreads
        (chooseTarget.andThen <| writePayload.andThen <| writeHeader.andThen getNextSeq) (payOff x)
      exact ⟨t, hstop, hlost.store_early (by decide) hearly r⟩
    · rw [readHdrs_undisturbed (undisturbed_of_powerLoss hm' hwrites),
        op_then_ok (chooseTarget_run (ha := s.seenHeader .A) (hb := s.seenHeader .B) rfl rfl), hx]
      obtain ⟨t, hstop, hlost⟩ := writePayload_lost
        (s := ((s.afterPrepare (encodeRecord r)).afterHdrs.passed 60).afterChoice _ x)
        (passed_powerLoss hm (n := 60) rfl) rfl rfl (encodeRecord_length r) (by omega)
      exact ⟨t, op_then_stop hstop, hlost.store_early le_rfl hearly r⟩
  · rw [storeWrite_undisturbed r (undisturbed_of_powerLoss hm hlate), hx]
    generalize nextSeq (s.seenHeader .A) (s.seenHeader .B) = q
    have hdev : ((s.halfWritten (encodeRecord r) q x).passed 89).dev =
        s.dev.afterWrite (payOff x) (encodeRecord r) := by
      cases x <;> rfl
    obtain ⟨t, hstop, hlost⟩ := writeHeader_lost (s := (s.halfWritten (encodeRecord r) q x).passed 89)
      (passed_powerLoss hm (n := 89) rfl) rfl rfl rfl (by omega)
    simp only [hdev, Nat.lt_sub_iff_add_lt] at hlost
    exact ⟨t, op_then_stop hstop, hlost.store_late hd⟩

theorem exec_storeWrite_lost {s : State} (r : Bureau) {k : Nat} (hs : s.seq = .idle)
    (hm : s.mishap = some { kind := .powerLoss, after := k }) (hk : k < 122) (hd : s.dev.slotsWritable) {x : Slot}
    (hx : target (s.dev.header .A) (s.dev.header .B) = x) :
    ∃ t, exec (.storeWrite r) s = .next t ∧ LostStore s.dev r x k t := by
  rw [← seenHeader_answers hd.1] at hx
  obtain ⟨t, hstop, hlost⟩ := storeWrite_lost (s := s.accept (.storeWrite r)) r hm hk hd hx
  exact ⟨t, (exec_host rfl s).trans (hostOp_abandoned hs rfl (op_bind_stop hstop)), hlost⟩

/-! ## Reading the store after power has returned (R272; 40_driver.md R121) -/

/-- Every STORE_READ that is accepted with no mishap armed ends. -/
theorem exec_storeRead_ends {s : State} (hs : s.ready) : ∃ t, exec .storeRead s = .next t := by
  obtain ⟨t, p, hread, -⟩ := exec_host_answers (storeRead_device s.dev) rfl rfl hs rfl
  exact ⟨_, hread⟩

/-- The header picked from an untied store is its newest (43_store.md R205). -/
theorem newest_of_untied {hdr : Slot → Option Header} {w : Slot} {h : Header}
    (hp : pick (hdr .A) (hdr .B) = some (w, h))
    (hne : ∀ a b, hdr .A = some a → hdr .B = some b → a.seqno ≠ b.seqno) : Newest hdr w h := by
  have hfun : bothHeaders (hdr .A) (hdr .B) = hdr := by
    funext x
    cases x <;> rfl
  exact hfun ▸ newest_of_pick hp hne

section

variable {d : Device} {r : Bureau} {x : Slot} {k : Nat} {t : State}

/-- DRV_WAKE leaves a device that is there awake, and every byte as it was. -/
theorem LostStore.wake (hl : LostStore d r x k t) (hp : d.params.present = true) :
    ∃ u, exec .drvWake t = .next u ∧ u.dev.answers = true ∧ u.dev.bytesAt = t.dev.bytesAt ∧ LostStore d r x k u := by
  have hthere : t.dev.params.present = true := by rw [hl.params, hp]
  obtain ⟨-, hwake⟩ := drvPowerOpsComplete t hl.ready
  rw [if_pos hthere] at hwake
  exact ⟨_, hwake, Device.answers_iff.2 ⟨hthere, rfl⟩, rfl, { hl with }⟩

theorem LostStore.otherHeader (hl : LostStore d r x k t) : t.dev.header x.other = d.header x.other :=
  congrArg validate (hl.otherBytes _ _ le_rfl (Nat.add_le_add_left (by decide) _))

theorem LostStore.otherPayload (hl : LostStore d r x k t) : t.dev.payload x.other = d.payload x.other := by
  obtain ⟨hpay, -, -⟩ := slot_map x.other
  exact hl.otherBytes _ _ (by omega) (by rw [hpay, Nat.add_assoc]; exact Nat.add_le_add_left (by decide) _)

/-- With the target's header as it was, or invalid, the winner is still the newest, and its payload is whole. -/
theorem LostStore.read_old (hl : LostStore d r x k t) (ha : t.dev.answers = true) {h : Header}
    (hn : Newest d.header x.other h) (hc : crc32 (d.payload x.other) = h.crc32)
    (htorn : t.dev.header x = d.header x ∨ t.dev.header x = none) :
    ∃ v, exec .storeRead t = .next v ∧
      v.response = some { result := 0x00#8, data := .record (decodeRecord (d.payload x.other)) h.seqno } := by
  have hnewest : Newest t.dev.header x.other h := by
    refine ⟨hl.otherHeader.trans hn.valid, fun g hg => ?_⟩
    rw [Slot.other_other] at hg
    rcases htorn with hold | hnone
    · exact hn.older g (by rw [Slot.other_other, ← hold, hg])
    · cases hnone.symm.trans hg
  rw [← hl.otherPayload] at hc ⊢
  exact exec_storeRead_newest hl.ready ha hnewest hc

/-- With the target's header as the completed write leaves it, power was lost after the payload's write: before that
the header still standing there has a smaller number. -/
theorem LostStore.read_new (hl : LostStore d r x k t) (ha : t.dev.answers = true) {q : DWord}
    (hq : nextSeq (d.header .A) (d.header .B) = q) (hw : q ≠ 0#64)
    (htorn : t.dev.bytesAt (hdrOff x) 24 = hdrEncode (crc32 (encodeRecord r)) q) :
    ∃ v, exec .storeRead t = .next v ∧ v.response = some { result := 0x00#8, data := .record r q } := by
  have hnewest : Newest t.dev.header x (builtHeader (crc32 (encodeRecord r)) q) :=
    newest_of_next ((congrArg validate htorn).trans (validate_hdrEncode _ _)) hl.otherHeader hq.symm (hq ▸ hw)
  have hlate : 92 < k := by
    by_contra hearly
    have hstood : d.header x = some (builtHeader (crc32 (encodeRecord r)) q) := by
      rw [← validate_hdrEncode, ← htorn, hl.header (Nat.not_lt.1 hearly)]
      rfl
    have hlt : q < nextSeq (d.header .A) (d.header .B) := by
      cases x with
      | A => exact lt_nextSeq (.inl hstood) (hq ▸ hw)
      | B => exact lt_nextSeq (.inr hstood) (hq ▸ hw)
    exact absurd hlt (hq ▸ BitVec.lt_irrefl q)
  have hread := exec_storeRead_newest hl.ready ha hnewest (congrArg crc32 (hl.payload hlate))
  rwa [hl.payload hlate, decodeRecord_encodeRecord] at hread

end

/-- Settles O59: the write goes to the other slot than the winner's, `exec_storeWrite_lost` says what power loss leaves
of it, and the three forms of the torn header are those of `LostStore.read_old` and `LostStore.read_new`. -/
theorem powerLossKeepsARecord : Obligations.PowerLossKeepsARecord := by
  intro s r n w h hs hm hn hd hp hne hcrc hw seq
  have hnewest : Newest s.dev.header w h := newest_of_untied hp hne
  obtain ⟨-, htarget, -⟩ := hnewest.chosen
  obtain ⟨t, hwrite, hlost⟩ := exec_storeWrite_lost r hs hm hn hd htarget
  obtain ⟨u, hwake, ha, hbytes, hlost'⟩ := hlost.wake (Device.answers_iff.1 hd.1).1
  obtain ⟨v, hread⟩ := exec_storeRead_ends hlost'.ready
  rw [← Slot.other_other w] at hnewest hcrc
  refine ⟨t, u, v, hwrite, hwake, hread, hlost.header, fun htorn => ?_, fun htorn => ?_⟩
  · rw [← hbytes] at htorn
    obtain ⟨v', hread', hanswer⟩ := hlost'.read_old ha hnewest hcrc (htorn.imp_left (congrArg validate))
    cases hread.symm.trans hread'
    rwa [Slot.other_other] at hanswer
  · rw [← hbytes] at htorn
    obtain ⟨v', hread', hanswer⟩ := hlost'.read_new ha rfl hw htorn
    cases hread.symm.trans hread'
    exact hanswer

end Sys2Proof.Machine
